-- ==== Sys2Proof/Word.lean ====
section
/-! DEFINITION. The two widths of the Serial command dispatcher (spec/00_scope.md R7). -/
namespace Sys2Proof

/-- A byte: an 8-bit unsigned value (R7; DATA_WIDTH of R5). -/
abbrev Byte := BitVec 8

/-- A word: a 16-bit unsigned value (R7; ADDR_WIDTH and CFG_WIDTH of R5). -/
abbrev Word := BitVec 16

end Sys2Proof
end

