-- ==== Sys2Proof/Config.lean ====
section
/-! DEFINITION. The parameters of spec/00_scope.md R5, the constants it fixes, and the draws of R10. -/
namespace Sys2Proof

/-- CAPACITY, the parameter buffer's size in bytes (R5). -/
abbrev capacity : Nat := 32

/-- The letters of a hex digit start at the character 'A': HEX_CASE = upper (R5, D9). -/
def hexLetterBase : Byte := 0x41

/-- DESIGN CHOICE (log 4), unsafe: what a store byte reads as that nothing has listed. The spec leaves the
launch image M0 arbitrary (R60); any image is some list of cells over this value. -/
def erasedByte : Byte := 0xFF

/-- The OPEN parameters of R5. The spec gives them no value; State carries them and no step changes them (log 1). -/
structure Config where
  opcReset : Byte
  opcEepromWrite : Byte
  opcEepromRead : Byte
  opcPollSonar : Byte
  cfgAddrSwitchThreshold : Word
  cfgAddrSonarDivider : Word
  cfgAddrThresholdSonar : Word
  cfgAddrThresholdIR : Word
  /-- STORE_SIZE: the implemented addresses are 0 .. storeSize - 1. -/
  storeSize : Nat
  deriving DecidableEq, Repr

/-- The reference test configuration, column TC of R5. -/
def Config.tc : Config :=
  { opcReset := 0x01, opcEepromWrite := 0x02, opcEepromRead := 0x03, opcPollSonar := 0x04
    cfgAddrSwitchThreshold := 0x0000, cfgAddrSonarDivider := 0x0002
    cfgAddrThresholdSonar := 0x0004, cfgAddrThresholdIR := 0x0006
    storeSize := 65536 }

/-- What the environment chooses for ONE step: the inputs of spec/10_state.md R40 and the other draws (R10, R222,
R44). RX is a queue in State; the choice about it is which bytes arrive and whether its head is offered (log 6). -/
structure Inputs where
  /-- `rst` (R40). -/
  rst : Bool
  /-- Bytes that reach the tail of RX before the step looks at its head (R205: in arrival order, none lost). -/
  arrivals : List Byte
  /-- Whether the queue offers its head this step: `rx_valid` is this and a byte being there (R40, R205). -/
  rxOffer : Bool
  /-- `st_ack` (R40). -/
  stAck : Bool
  /-- `poll_clear` (R40). -/
  pollClear : Bool
  /-- The draw of spec/70_reset_and_hazards.md R222. -/
  resetByte : Byte
  /-- What RX holds after a reset (R44 row RX): read only in a step with `rst`. -/
  rxAfterReset : List Byte
  deriving DecidableEq, Repr, Inhabited

/-- FREE VALUE (log 5), safe: the draws of a step for which State's script holds none. Nothing constrains it, so what
is proved of a step holds for every choice of the environment. -/
opaque Config.freeInputs : Nat → Inputs

end Sys2Proof
end

