-- ==== Sys2Proof/Syntax.lean ====
section
/-! DEFINITION. The commands: one constructor per row of spec/opcode_table.json (spec/30_encoding.md R93, R94). -/
namespace Sys2Proof

/-- A command with its operands. A term stands for a whole frame (R90); see WellFormed.lean for the frames that exist. -/
inductive Instr where
  /-- RESET, format F0 (R140). -/
  | reset
  /-- EEPROM_WRITE, format FW: address `a`, declared count `n`, data bytes `d` (R142). -/
  | eepromWrite (a : Word) (n : Byte) (d : List Byte)
  /-- EEPROM_READ, format FR: address `a` (R150). -/
  | eepromRead (a : Word)
  /-- POLL_SONAR, format F0 (R160). -/
  | pollSonar
  /-- UNRECOGNIZED, format F0: the opcode byte `b` itself (R164). -/
  | unrecognized (b : Byte)
  deriving DecidableEq, Repr

end Sys2Proof
end

