-- ==== Sys2Proof/WellFormed.lean ====
section
/-! DEFINITION. Well-formed configurations (spec/00_scope.md R5, R6) and commands (spec/30_encoding.md R93, R95, R96). -/
namespace Sys2Proof

/-- R6: the four opcode values are pairwise distinct; R5: STORE_SIZE lies in 1 .. 65536 (log 2). -/
def Config.wellFormed (c : Config) : Bool :=
  c.opcReset != c.opcEepromWrite && c.opcReset != c.opcEepromRead && c.opcReset != c.opcPollSonar &&
  c.opcEepromWrite != c.opcEepromRead && c.opcEepromWrite != c.opcPollSonar && c.opcEepromRead != c.opcPollSonar &&
  decide (1 ≤ c.storeSize) && decide (c.storeSize ≤ 65536)

/-- The largest data-byte count of a frame that completes: 29, three parameters short of the buffer (R95, R143). -/
abbrev maxCount : Nat := capacity - 3

/-- A command that is a frame of configuration `c`: an EEPROM_WRITE carries as many data bytes as it declares, and no
more than complete (R95); an UNRECOGNIZED byte is none of the four opcodes (R96). -/
def Instr.wellFormed (c : Config) : Instr → Bool
  | .reset => true
  | .eepromWrite _ n d => decide (d.length = n.toNat) && decide (n.toNat ≤ maxCount)
  | .eepromRead _ => true
  | .pollSonar => true
  | .unrecognized b => b != c.opcReset && b != c.opcEepromWrite && b != c.opcEepromRead && b != c.opcPollSonar

end Sys2Proof
end

