-- ==== Sys2Proof/Decode.lean ====
section
/-! DEFINITION. The opcode decoder, the frame decoder and encoder, and the frame notation (spec/30_encoding.md). -/
namespace Sys2Proof

/-! ### Byte order (spec/20_memory.md R69, spec/30_encoding.md R94) -/

/-- `hi : lo`, the first byte the more significant (R7, R94). -/
def assemble (hi lo : Byte) : Word := hi ++ lo

/-- `a[15:8]`. -/
def hiByte (a : Word) : Byte := a.extractLsb' 8 8

/-- `a[7:0]`. -/
def loByte (a : Word) : Byte := a.extractLsb' 0 8

/-! ### The opcode decoder -/

/-- The command classes of R92. -/
inductive CommandClass where
  | reset | eepromWrite | eepromRead | pollSonar | unrecognized
  deriving DecidableEq, Repr

/-- R92, `decode(b)`: every byte value has one class. -/
def decodeClass (c : Config) (b : Byte) : CommandClass :=
  if b = c.opcReset then .reset
  else if b = c.opcEepromWrite then .eepromWrite
  else if b = c.opcEepromRead then .eepromRead
  else if b = c.opcPollSonar then .pollSonar
  else .unrecognized

/-- The class of a command, one per row of the opcode table (R96). -/
def Instr.commandClass : Instr → CommandClass
  | .reset => .reset
  | .eepromWrite .. => .eepromWrite
  | .eepromRead _ => .eepromRead
  | .pollSonar => .pollSonar
  | .unrecognized _ => .unrecognized

/-! ### Frames -/

/-- What a byte stream starts with. -/
inductive DecodeResult where
  /-- A complete frame, and the bytes after it. -/
  | frame (i : Instr) (rest : List Byte)
  /-- No complete frame yet: its completion predicate wants more bytes (R90, R95). -/
  | needMore
  /-- An EEPROM_WRITE frame that declares 30 or more data bytes: refused at its 33rd parameter, all 34 bytes consumed
  (R95, spec/40_frame_accumulator.md R116). -/
  | paramOverflow (rest : List Byte)
  deriving DecidableEq, Repr

/-- How many data bytes of an overflowing EEPROM_WRITE frame are taken: 29 stored, the 30th discarded (R116). -/
abbrev overflowCount : Nat := maxCount + 1

/-- The frame at the head of a byte stream, by each opcode's completion predicate (R93, R95). Total; a stream that
holds no complete frame is refused by name. -/
def decode (c : Config) : List Byte → DecodeResult
  | [] => .needMore
  | op :: ps =>
    match decodeClass c op with
    | .reset => .frame .reset ps
    | .pollSonar => .frame .pollSonar ps
    | .unrecognized => .frame (.unrecognized op) ps
    | .eepromRead =>
      match ps with
      | aH :: aL :: rest => .frame (.eepromRead (assemble aH aL)) rest
      | _ => .needMore
    | .eepromWrite =>
      match ps with
      | aH :: aL :: n :: ds =>
        if n.toNat ≤ maxCount then
          if n.toNat ≤ ds.length then
            .frame (.eepromWrite (assemble aH aL) n (ds.take n.toNat)) (ds.drop n.toNat)
          else .needMore
        else if overflowCount ≤ ds.length then .paramOverflow (ds.drop overflowCount)
        else .needMore
      | _ => .needMore

/-- The bytes of a command's frame, formats F0, FR and FW of R93. -/
def encode (c : Config) : Instr → List Byte
  | .reset => [c.opcReset]
  | .eepromWrite a n d => [c.opcEepromWrite, hiByte a, loByte a, n] ++ d
  | .eepromRead a => [c.opcEepromRead, hiByte a, loByte a]
  | .pollSonar => [c.opcPollSonar]
  | .unrecognized b => [b]

/-- The length column of R93. -/
def Instr.frameLength : Instr → Nat
  | .reset => 1
  | .eepromWrite _ n _ => 4 + n.toNat
  | .eepromRead _ => 3
  | .pollSonar => 1
  | .unrecognized _ => 1

/-- The first byte of a command's frame, the opcode. -/
def Instr.opcodeByte (c : Config) : Instr → Byte
  | .reset => c.opcReset
  | .eepromWrite .. => c.opcEepromWrite
  | .eepromRead _ => c.opcEepromRead
  | .pollSonar => c.opcPollSonar
  | .unrecognized b => b

/-! ### Frame notation (R98) and the pseudo-instruction (R99) -/

/-- A line of the frame notation of R98. -/
inductive FrameLine where
  | reset
  | pollSonar
  | eepromRead (a : Word)
  /-- `EEPROM_WRITE a, [d0, ...]`; R98 asks for at most 29 data bytes. -/
  | eepromWrite (a : Word) (d : List Byte)
  /-- `EEPROM_WRITE a, n, [d0, ...]`: the declared count may differ from the number of bytes. -/
  | eepromWriteDeclared (a : Word) (n : Byte) (d : List Byte)
  /-- `BYTE b0, b1, ...`: raw bytes. -/
  | bytes (bs : List Byte)
  deriving DecidableEq, Repr

/-- The bytes a line spells (R98). -/
def FrameLine.spell (c : Config) : FrameLine → List Byte
  | .reset => [c.opcReset]
  | .pollSonar => [c.opcPollSonar]
  | .eepromRead a => [c.opcEepromRead, hiByte a, loByte a]
  | .eepromWrite a d => [c.opcEepromWrite, hiByte a, loByte a, BitVec.ofNat 8 d.length] ++ d
  | .eepromWriteDeclared a n d => [c.opcEepromWrite, hiByte a, loByte a, n] ++ d
  | .bytes bs => bs

/-- The bytes of a program: its lines in order are the RX stream (R98). -/
def programBytes (c : Config) (p : List FrameLine) : List Byte := p.flatMap (FrameLine.spell c)

/-- The four configuration words (spec/20_memory.md R67). -/
inductive ConfigField where
  | switchThreshold | sonarDivider | thresholdSonar | thresholdIR
  deriving DecidableEq, Repr

/-- The store address of a configuration word's high byte (R67). -/
def configAddr (c : Config) : ConfigField → Word
  | .switchThreshold => c.cfgAddrSwitchThreshold
  | .sonarDivider => c.cfgAddrSonarDivider
  | .thresholdSonar => c.cfgAddrThresholdSonar
  | .thresholdIR => c.cfgAddrThresholdIR

/-- `SET_CONFIG f, w` (R99). -/
def setConfig (c : Config) (f : ConfigField) (w : Word) : FrameLine :=
  .eepromWrite (configAddr c f) [hiByte w, loByte w]

/-! ### The opcode table's numbering -/

/-- `n` bytes of a number, bits 7:0 the first. -/
def bytesOfNat : Nat → Nat → List Byte
  | 0, _ => []
  | n + 1, w => BitVec.ofNat 8 w :: bytesOfNat n (w / 256)

/-- An instruction's `nbits` bits as the bytes of its frame, with zero bytes above them up to the longest stream one
instruction takes, 34 bytes (R95). -/
def tableBytes (nbits w : Nat) : List Byte :=
  bytesOfNat (capacity + 2) (w % 2 ^ nbits)

/-- The instruction the decoder reads from a word of spec/opcode_table.json, under the table's own column
`match_tc` (the configuration TC, log 1). -/
def decodeTableWord (nbits w : Nat) : Option Instr :=
  match decode Config.tc (tableBytes nbits w) with
  | .frame i _ => some i
  | .needMore => none
  | .paramOverflow _ => none

end Sys2Proof
end

