-- ==== Sys2Proof/Machine/State.lean ====
section
/-! DEFINITION. The state of the Serial command dispatcher (spec/10_state.md), its faults, its refusals and its reset. -/
namespace Sys2Proof.Machine

/-- Where a run stops because the model has no meaning (spec/60_exceptions.md R196). Both are safe: they give no
meaning rather than a value. -/
inductive Fault where
  /-- F_STORE_RANGE: a store access at an address at or above STORE_SIZE; raised by EEPROM_READ, by a write step and
  by Refresh (R62, R63, R70, R172). Safe. -/
  | storeRange
  /-- F_UNREACHABLE: a branch the spec derives cannot be taken; raised by the evaluation of a RESET or POLL_SONAR
  frame with parameters and by a sequencer step past its count or past the buffer (R196, U20, log 9). Safe. -/
  | unreachable
  deriving DecidableEq, Repr

/-- Why a step is refused. -/
inductive Refusal where
  /-- The instruction of this mnemonic has no meaning in the model. No arm of exec answers it. -/
  | notModelled (mnemonic : String)
  /-- The configuration is not well formed; raised by every step under it (spec/00_scope.md R6). Safe. -/
  | illFormedConfiguration
  deriving DecidableEq, Repr

/-- R21. -/
inductive Phase where
  | init | ready | wseq | resetReq
  deriving DecidableEq, Repr

/-- The codes of R21. -/
def Phase.code : Phase → BitVec 2
  | .init => 0
  | .ready => 1
  | .wseq => 2
  | .resetReq => 3

/-- The reject reasons (spec/40_frame_accumulator.md R112, spec/60_exceptions.md R192). -/
inductive RejectReason where
  | unrecognizedOpcode | readOverlength | paramOverflow
  deriving DecidableEq, Repr

/-- The reason codes of R112 and R192. -/
def RejectReason.code : RejectReason → Nat
  | .unrecognizedOpcode => 1
  | .readOverlength => 2
  | .paramOverflow => 3

/-- The events of R112: the model's observation of a step, on no port. -/
inductive Event where
  | frameStart (op : Byte)
  | param (i : Nat) (b : Byte)
  | reject (r : RejectReason)
  | resetRequested
  | pollArmed
  | pollCleared
  | readDone (a : Word) (v : Byte)
  | writeStart (a : Word) (n : Byte)
  | writeWait (a : Word) (d : Byte)
  | writeAck (a : Word) (d : Byte)
  | writeDone (a : Word) (n : Byte)
  | refresh (switchThreshold sonarDivider thresholdSonar thresholdIR : Word)
  | initDone
  | resetTaken
  deriving DecidableEq, Repr

/-- A register that may hold no value (spec/00_scope.md R9). `hasValue` says whether the spec gives it one; `bits`
are what the storage holds, and hold a named value even then (log 3). -/
structure Reg (α : Type) where
  hasValue : Bool
  bits : α
  deriving DecidableEq, Repr

/-- A register that holds `v`. -/
def Reg.held {α : Type} (v : α) : Reg α := { hasValue := true, bits := v }

/-- A register with no value (R9), over named bits. DESIGN CHOICE (log 3), unsafe: the bits are `v`. -/
def Reg.noValue {α : Type} (v : α) : Reg α := { hasValue := false, bits := v }

/-- What the outside sees of a register: nothing while it holds no value. -/
def Reg.value? {α : Type} (r : Reg α) : Option α := if r.hasValue then some r.bits else none

/-- The PersistentStore's contents: cells of strictly rising address, none of them `erasedByte` (log 4). -/
abbrev Memory := List Host.Cell

/-- The state vector (R20), the environment's three pieces beside it (R34), and the model's own two last fields. -/
@[ext]
structure State where
  /-- The parameters of spec/00_scope.md R5; no step changes them (log 1). -/
  cfg : Config
  /-- R21. -/
  phase : Phase
  /-- R22. -/
  inProgress : Bool
  /-- R23. -/
  currentOpcode : Reg Byte
  /-- R24, 0 .. capacity. -/
  parameterCount : Nat
  /-- R25. -/
  buf : Vector (Reg Byte) capacity
  /-- `cur_valid`, R26. -/
  curValid : Bool
  /-- `cur_count`, R26. -/
  curCount : Reg Byte
  /-- `cur_addr`, R27. -/
  curAddr : Reg Word
  /-- `cur_off`, R28. -/
  curOff : Reg Byte
  /-- R29. -/
  pollArmed : Bool
  /-- The ConfigCache, R30. -/
  switchThreshold : Reg Word
  sonarDivider : Reg Word
  thresholdSonar : Reg Word
  thresholdIR : Reg Word
  /-- R33: none until a step raises a fault, then its kind for good. -/
  faulted : Option Fault
  /-- M, the PersistentStore (R34). -/
  mem : Memory
  /-- TX, the bytes appended so far (R34). -/
  tx : List Byte
  /-- RX, head first (R34). -/
  rx : List Byte
  /-- `rx_take` of the last step (R41). -/
  rxTake : Bool
  /-- The events of the last step (spec/40_frame_accumulator.md R112). -/
  events : List Event
  /-- The model's own (log 5): the environment's choices for the coming steps, the next step's first. -/
  script : List Inputs
  /-- The model's own (log 5): how many free draws have been used. -/
  draws : Nat
  deriving DecidableEq, Repr

/-- The state at the start of a run (spec/70_reset_and_hazards.md R223, spec/10_state.md R44) under configuration `c`,
with launch image `m0` and what the environment has in RX and chooses next. -/
def State.start (c : Config) (m0 : Memory) (rx : List Byte) (script : List Inputs) : State :=
  { cfg := c
    phase := .init
    inProgress := false
    currentOpcode := .noValue 0
    parameterCount := 0
    buf := Vector.replicate capacity (.noValue 0)
    curValid := false
    curCount := .noValue 0
    curAddr := .noValue 0
    curOff := .noValue 0
    pollArmed := false
    switchThreshold := .noValue 0
    sonarDivider := .noValue 0
    thresholdSonar := .noValue 0
    thresholdIR := .noValue 0
    faulted := none
    mem := m0
    tx := []
    rx := rx
    rxTake := false
    events := []
    script := script
    draws := 0 }

/-- The machine right after reset: TC (log 1), a store nothing has been written to (log 4), RX empty (log 7). -/
def State.reset : State := State.start Config.tc [] [] []

end Sys2Proof.Machine
end

