-- ==== Sys2Proof/Machine/Ops.lean ====
section
/-! DEFINITION. The named operations over the store, the registers, the events, TX and RX; raising a model fault, which
is this hardware's only exception (spec/60_exceptions.md R190, R196); reset. -/
namespace Sys2Proof.Machine

/-! ### The store (spec/20_memory.md) -/

/-- The canonical form: addresses strictly rising, no cell equal to what an unlisted address reads as. -/
def Memory.wf : Memory → Bool
  | [] => true
  | (a, v) :: t => v != erasedByte && t.all (fun cell => decide (a < cell.1)) && Memory.wf t

/-- The byte stored at an address, listed or not. -/
def Memory.read : Memory → Nat → Byte
  | [], _ => erasedByte
  | (b, w) :: t, a => if a = b then w else Memory.read t a

/-- Stores a byte, keeping the canonical form. -/
def Memory.write : Memory → Nat → Byte → Memory
  | [], a, v => if v = erasedByte then [] else [(a, v)]
  | (b, w) :: t, a, v =>
    if a < b then (if v = erasedByte then (b, w) :: t else (a, v) :: (b, w) :: t)
    else if a = b then (if v = erasedByte then t else (a, v) :: t)
    else (b, w) :: Memory.write t a v

/-- The address is implemented: below STORE_SIZE (R60). -/
def inStore (s : State) (a : Word) : Bool := decide (a.toNat < s.cfg.storeSize)

/-- `MemRead(a, 1)` (R62); none where it faults. -/
def memRead (s : State) (a : Word) : Option Byte :=
  if inStore s a then some (s.mem.read a.toNat) else none

/-- `MemWrite(a, 1, v)` (R63); none where it faults. -/
def memWrite (s : State) (a : Word) (v : Byte) : Option State :=
  if inStore s a then some { s with mem := s.mem.write a.toNat v } else none

/-- A configuration word: its high byte at `a`, its low byte at `a + 1` modulo 2^16 (R66, R67, R69). -/
def memReadWord (s : State) (a : Word) : Option Word :=
  match memRead s a, memRead s (a + 1) with
  | some hi, some lo => some (assemble hi lo)
  | _, _ => none

/-! ### Events, TX, faults -/

/-- `emit E` (spec/00_scope.md R8). -/
def emit (s : State) (e : Event) : State := { s with events := s.events ++ [e] }

/-- `tx_append` (spec/41_commands.md R157): never waits, never fails (R156). -/
def txAppend (s : State) (bs : List Byte) : State := { s with tx := s.tx ++ bs }

/-- `raise Fault(kind)` (spec/60_exceptions.md R196): the step performs no further statement, and what it has done
stays. The caller passes the state as the earlier statements left it. -/
def raiseFault (s : State) (k : Fault) : State := { s with faulted := some k }

/-- R153, `hex(x)`; the ASCII codes are general knowledge (G1, log 13). -/
def hexDigit (x : BitVec 4) : Byte :=
  if x ≤ 9 then 0x30 + x.setWidth 8 else hexLetterBase + (x.setWidth 8 - 10)

/-- R157, `Response(v)`: "0", a space, two hex digits, LF, CR (R152 to R155, C2). -/
def response (v : Byte) : List Byte :=
  [0x30, 0x20, hexDigit (v.extractLsb' 4 4), hexDigit (v.extractLsb' 0 4), 0x0A, 0x0D]

/-! ### Refresh (spec/20_memory.md R70) -/

/-- Writes the four ConfigCache fields at once (R71). -/
def setCache (s : State) (w0 w1 w2 w3 : Word) : State :=
  { s with
    switchThreshold := .held w0, sonarDivider := .held w1
    thresholdSonar := .held w2, thresholdIR := .held w3 }

/-- The four words Refresh would load from the current store, none if one of the eight addresses is out of range. -/
def configWords (s : State) : Option (Word × Word × Word × Word) :=
  match memReadWord s s.cfg.cfgAddrSwitchThreshold, memReadWord s s.cfg.cfgAddrSonarDivider,
      memReadWord s s.cfg.cfgAddrThresholdSonar, memReadWord s s.cfg.cfgAddrThresholdIR with
  | some w0, some w1, some w2, some w3 => some (w0, w1, w2, w3)
  | _, _, _, _ => none

/-- `Refresh()` (R70, R71); none where it faults, and then no field changes. -/
def refresh (s : State) : Option State :=
  match configWords s with
  | some (w0, w1, w2, w3) => some (emit (setCache s w0 w1 w2 w3) (.refresh w0 w1 w2 w3))
  | none => none

/-! ### Ending a frame (spec/40_frame_accumulator.md) -/

/-- `Finish()` (R120). -/
def finish (s : State) : State := { s with inProgress := false, parameterCount := 0, curValid := false }

/-- `Reject(reason)` (R121), the one path of every malformed frame (R194). -/
def reject (s : State) (r : RejectReason) : State := emit (finish s) (.reject r)

/-! ### The environment's choices (spec/00_scope.md R10) -/

/-- This step's inputs: the head of the script, or a free draw where the script holds none (log 5). -/
def nextInputs (s : State) : Inputs := s.script.head?.getD (Config.freeInputs s.draws)

/-- The state at the start of its step: this step's inputs are used up, `rx_take` is 0 and the event list is empty
(R110, R112). -/
def fresh (s : State) : State :=
  { s with
    script := s.script.tail
    draws := if s.script.isEmpty then s.draws + 1 else s.draws
    rxTake := false
    events := [] }

/-- The bytes that arrive at the tail of RX (R205). -/
def arrive (s : State) (bs : List Byte) : State := { s with rx := s.rx ++ bs }

/-- `rx_byte`, when `rx_valid` = 1 (spec/10_state.md R40): the head of RX, if the queue offers it. -/
def offered (i : Inputs) (s : State) : Option Byte := if i.rxOffer then s.rx.head? else none

/-- The step takes the offered byte: `rx_take` = 1 and the head leaves RX (R113). -/
def takeHead (s : State) : State := { s with rx := s.rx.tail, rxTake := true }

/-! ### Reset (spec/70_reset_and_hazards.md) -/

/-- The address of the data byte at the sequencer's offset (R66). -/
def writeAddr (s : State) : Word := s.curAddr.bits + s.curOff.bits.setWidth 16

/-- The sequencer has a data byte left to write (R220, R222). -/
def writePending (s : State) : Bool := decide (s.phase = .wseq) && decide (s.curOff.bits < s.curCount.bits)

/-- A data byte is left to write at an address that exists. For an address that does not, R172 presents no write and
R222 finds no byte to draw (log 11). -/
def writeInFlight (s : State) : Bool := writePending s && inStore s (writeAddr s)

/-- What a reset leaves of the store: the byte of a write in flight becomes the draw (R222). -/
def resetMemory (i : Inputs) (s : State) : Memory :=
  if writeInFlight s then s.mem.write (writeAddr s).toNat i.resetByte else s.mem

/-- `ResetStep()` (R220), leaving the values of R44; RX holds what the environment chooses. -/
def resetStep (i : Inputs) (s : State) : State :=
  emit
    { s with
      mem := resetMemory i s
      phase := .init, inProgress := false, parameterCount := 0, curValid := false, pollArmed := false
      currentOpcode := .noValue 0
      buf := Vector.replicate capacity (.noValue 0)
      curCount := .noValue 0, curAddr := .noValue 0, curOff := .noValue 0
      switchThreshold := .noValue 0, sonarDivider := .noValue 0
      thresholdSonar := .noValue 0, thresholdIR := .noValue 0
      rx := i.rxAfterReset }
    .resetTaken

end Sys2Proof.Machine
end

