-- ==== Sys2Proof/Machine/Operands.lean ====
section
/-! DEFINITION. The parameter buffer and the operands read from it (spec/10_state.md R25, spec/30_encoding.md R94). -/
namespace Sys2Proof.Machine

/-- `buf[i]`; none past the buffer's end. -/
def bufByte? (s : State) (i : Nat) : Option Byte := s.buf[i]?.map Reg.bits

/-- The class of the frame in flight (R92, spec/40_frame_accumulator.md R119). -/
def frameClass (s : State) : CommandClass := decodeClass s.cfg s.currentOpcode.bits

/-- The parameters taken so far, in arrival order (R25). -/
def params (s : State) : List Byte := (s.buf.toList.take s.parameterCount).map Reg.bits

/-- The bytes taken so far of the frame in flight, opcode first; none while idle. -/
def frameBytes (s : State) : List Byte := if s.inProgress then s.currentOpcode.bits :: params s else []

/-- The address operand, `buf[0] : buf[1]` (R94). -/
def operandAddress (s : State) : Word := assemble s.buf[0].bits s.buf[1].bits

/-- The count operand, `buf[2]` (R94). -/
def operandCount (s : State) : Byte := s.buf[2].bits

/-- The data operand of an EEPROM_WRITE frame of count `n`: `buf[3] .. buf[2 + n]` (R94). -/
def operandData (s : State) (n : Byte) : List Byte :=
  ((s.buf.toList.drop 3).take n.toNat).map Reg.bits

/-- Writes `buf[k], buf[k + 1], ...` with the given bytes, as far as the buffer goes. -/
def storeFrom (buf : Vector (Reg Byte) capacity) : Nat → List Byte → Vector (Reg Byte) capacity
  | _, [] => buf
  | k, b :: bs => storeFrom (buf.setIfInBounds k (.held b)) (k + 1) bs

/-- `OpcodeByte(b)` (spec/40_frame_accumulator.md R114). -/
def opcodeByte (b : Byte) (s : State) : State :=
  emit { s with currentOpcode := .held b, inProgress := true, parameterCount := 0 } (.frameStart b)

/-- `Append(b)` (R117). Its precondition is a buffer that is not full (R116 runs first). -/
def appendParam (b : Byte) (s : State) : State :=
  emit
    { s with
      buf := s.buf.setIfInBounds s.parameterCount (.held b)
      parameterCount := s.parameterCount + 1 }
    (.param s.parameterCount b)

/-- Creates the write cursor: address `a`, count `n`, offset 0 (spec/41_commands.md R142, spec/10_state.md R26 to R28). -/
def setCursor (s : State) (a : Word) (n : Byte) : State :=
  { s with curValid := true, curCount := .held n, curAddr := .held a, curOff := .held 0 }

/-- The cursor capture of an EEPROM_WRITE frame whose count byte has just been appended (R142). -/
def captureCursor (s : State) : State :=
  if frameClass s = .eepromWrite ∧ s.parameterCount = 3 then setCursor s (operandAddress s) (operandCount s) else s

/-- The frame of an EEPROM_WRITE command in the registers its bytes are latched in: in flight, its parameters in the
buffer, its cursor created (R114, R117, R142). In the step that completes such a frame they hold this already (log 12). -/
def latchWrite (a : Word) (n : Byte) (d : List Byte) (s : State) : State :=
  setCursor
    { s with
      inProgress := true
      currentOpcode := .held s.cfg.opcEepromWrite
      parameterCount := n.toNat + 3
      buf := storeFrom s.buf 0 (hiByte a :: loByte a :: n :: d) }
    a n

end Sys2Proof.Machine
end

