-- ==== Sys2Proof/Machine/Flags.lean ====
section
/-! DEFINITION. The conditions that decide what a step does: the completion predicates (spec/41_commands.md), the poll
flag (R160, R161) and the sequencer's tests (spec/42_write_sequencer.md R171). -/
namespace Sys2Proof.Machine

/-- RESET and POLL_SONAR complete on the opcode byte alone, parameterCount = 0 (R140, R160). -/
def opcodeAlone (s : State) : Bool := decide (s.parameterCount = 0)

/-- EEPROM_READ has not got both address bytes (R150). -/
def readGoesOn (s : State) : Bool := decide (s.parameterCount < 2)

/-- EEPROM_READ completes at two parameters (R150). -/
def readComplete (s : State) : Bool := decide (s.parameterCount = 2)

/-- EEPROM_WRITE completes at `cur_count + 3` parameters, an exact sum, tested only from three on (R142, R143). -/
def writeComplete (s : State) : Bool :=
  decide (3 ≤ s.parameterCount) && decide (s.parameterCount = s.curCount.bits.toNat + 3)

/-- The parameter buffer is full (R116). -/
def bufferFull (s : State) : Bool := decide (capacity ≤ s.parameterCount)

/-- `pollArmed <- 1` (R160): a flag, not a counter (spec/10_state.md R29). -/
def armPoll (s : State) : State := { s with pollArmed := true }

/-- `PollClear()` (R161). -/
def pollClear (s : State) : State :=
  if s.pollArmed then emit { s with pollArmed := false } .pollCleared else s

/-- Every data byte of the frame is written (R171). -/
def allWritten (s : State) : Bool := decide (s.curOff.bits = s.curCount.bits)

/-- The offset is past the count: a state no run reaches (R196). -/
def pastCount (s : State) : Bool := decide (s.curCount.bits < s.curOff.bits)

end Sys2Proof.Machine
end

