-- ==== Sys2Proof/Machine/Eeprom.lean ====
section
/-! DEFINITION. EEPROM_WRITE and EEPROM_READ (spec/41_commands.md R142, R143, R150). -/
namespace Sys2Proof.Machine

/-- `StartWriteSequence()` (R143) on the frame of the operands: the step writes no store byte; the sequencer of
Sequencer.lean writes them in the steps that follow (R171). -/
def execEepromWrite (a : Word) (n : Byte) (d : List Byte) (s : State) : Host.Outcome State Fault Refusal :=
  .next (emit { latchWrite a n d s with phase := .wseq } (.writeStart a n))

/-- The completion branch of `ReadFrame()` (R150). A read past the store raises F_STORE_RANGE: no byte on TX, and the
frame does not end (spec/60_exceptions.md R195). -/
def execEepromRead (a : Word) (s : State) : Host.Outcome State Fault Refusal :=
  match memRead s a with
  | some v => .next (emit (finish (txAppend s (response v))) (.readDone a v))
  | none => .next (raiseFault s .storeRange)

end Sys2Proof.Machine
end

