-- ==== Sys2Proof/Machine/Sensor.lean ====
section
/-! DEFINITION. POLL_SONAR (spec/41_commands.md R160). -/
namespace Sys2Proof.Machine

/-- `PollFrame()` (R160). -/
def execPollSonar (s : State) : Host.Outcome State Fault Refusal :=
  .next (emit (finish (armPoll s)) .pollArmed)

end Sys2Proof.Machine
end

