-- ==== Sys2Proof/Machine/System.lean ====
section
/-! DEFINITION. RESET and the unrecognised opcodes (spec/41_commands.md R140, R164). -/
namespace Sys2Proof.Machine

/-- `ResetFrame()` (R140): the system-reset request is raised by the phase; the reset itself is the environment's. -/
def execReset (s : State) : Host.Outcome State Fault Refusal :=
  .next (emit { finish s with phase := .resetReq } .resetRequested)

/-- `UnrecognizedFrame()` (R164): dropped silently, whatever the byte. -/
def execUnrecognized (_b : Byte) (s : State) : Host.Outcome State Fault Refusal :=
  .next (reject s .unrecognizedOpcode)

end Sys2Proof.Machine
end

