-- ==== Sys2Proof/Machine/Dispatch.lean ====
section
/-! DEFINITION. exec: a complete frame's command, one arm per row of spec/opcode_table.json (spec/40_frame_accumulator.md R119). -/
namespace Sys2Proof.Machine

def exec (i : Instr) (s : State) : Host.Outcome State Fault Refusal :=
  match i with
  | .reset => Sys2Proof.Machine.execReset s
  | .eepromWrite a n d => Sys2Proof.Machine.execEepromWrite a n d s
  | .eepromRead a => Sys2Proof.Machine.execEepromRead a s
  | .pollSonar => Sys2Proof.Machine.execPollSonar s
  | .unrecognized b => Sys2Proof.Machine.execUnrecognized b s

end Sys2Proof.Machine
end

