-- ==== Sys2Proof/Machine/Accumulator.lean ====
section
/-! DEFINITION. The frame accumulator: byte intake and the completion rules (spec/40_frame_accumulator.md). -/
namespace Sys2Proof.Machine

/-- `Evaluate()` (R119): the completion rule of the frame's class, after the byte and the cursor capture. While the
predicate does not hold, the frame goes on; once it does, the frame's command runs with its operands. RESET and
POLL_SONAR with parameters cannot occur (R196, log 9), nor can an EEPROM_READ with three (R151, log 10). -/
def evaluate (s : State) : Host.Outcome State Fault Refusal :=
  match frameClass s with
  | .reset => if opcodeAlone s then exec .reset s else .next (raiseFault s .unreachable)
  | .eepromWrite =>
    if writeComplete s then exec (.eepromWrite s.curAddr.bits s.curCount.bits (operandData s s.curCount.bits)) s
    else .next s
  | .eepromRead =>
    if readGoesOn s then .next s
    else if readComplete s then exec (.eepromRead (operandAddress s)) s
    else .next (reject s .readOverlength)
  | .pollSonar => if opcodeAlone s then exec .pollSonar s else .next (raiseFault s .unreachable)
  | .unrecognized => exec (.unrecognized s.currentOpcode.bits) s

/-- A byte becomes the opcode of a new frame or the next parameter of the frame in flight, whatever its value
(spec/30_encoding.md R91); then the cursor capture (R111, R114, R117, R142). -/
def intake (b : Byte) (s : State) : State :=
  if s.inProgress then captureCursor (appendParam b s) else opcodeByte b s

/-- `Feed(b)` (R113): the overflow check comes first, and a rejected byte is not evaluated (R115, R116). -/
def feed (b : Byte) (s : State) : Host.Outcome State Fault Refusal :=
  if s.inProgress && bufferFull s then .next (reject s .paramOverflow) else evaluate (intake b s)

end Sys2Proof.Machine
end

