-- ==== Sys2Proof/Machine/Sequencer.lean ====
section
/-! DEFINITION. The EEPROM write sequencer (spec/42_write_sequencer.md). -/
namespace Sys2Proof.Machine

/-- `WriteStep(ack)` (R172). The range fault comes before any request; without an acknowledgement nothing changes. -/
def writeStep (ack : Bool) (s : State) : State :=
  match bufByte? s (3 + s.curOff.bits.toNat) with
  | none => raiseFault s .unreachable
  | some d =>
    match memWrite s (writeAddr s) d with
    | none => raiseFault s .storeRange
    | some s' =>
      if ack then emit { s' with curOff := .held (s.curOff.bits + 1) } (.writeAck (writeAddr s) d)
      else emit s (.writeWait (writeAddr s) d)

/-- `FinishWriteSequence()` (R173). -/
def finishWriteSequence (s : State) : State :=
  match refresh s with
  | none => raiseFault s .storeRange
  | some s' => { finish (emit s' (.writeDone s.curAddr.bits s.curCount.bits)) with phase := .ready }

/-- `SeqStep(ack)` (R171); an offset past the count cannot occur (R196, log 9). -/
def seqStep (ack : Bool) (s : State) : State :=
  if allWritten s then finishWriteSequence s
  else if pastCount s then raiseFault s .unreachable
  else writeStep ack s

end Sys2Proof.Machine
end

