-- ==== Sys2Proof/Machine/Tick.lean ====
section
/-! DEFINITION. One step of the SCD (spec/40_frame_accumulator.md R110, R111), and how a frame is put before it. -/
namespace Sys2Proof.Machine

/-- `InitStep()` (spec/70_reset_and_hazards.md R221). -/
def initStep (s : State) : State :=
  match refresh s with
  | none => raiseFault s .storeRange
  | some s' => emit { s' with phase := .ready } .initDone

/-- The READY action of R110: take the offered byte, if there is one. -/
def readyStep (i : Inputs) (s : State) : Host.Outcome State Fault Refusal :=
  match offered i s with
  | some b => feed b (takeHead s)
  | none => .next s

/-- The phase action of R110. -/
def phaseStep (i : Inputs) (s : State) : Host.Outcome State Fault Refusal :=
  match s.phase with
  | .init => .next (initStep s)
  | .ready => readyStep i s
  | .wseq => .next (seqStep i.stAck s)
  | .resetReq => .next s

/-- The state the phase action of a step without rst acts on: bytes that arrived are in RX, and `poll_clear` has been
applied (R111). -/
def settle (i : Inputs) (s : State) : State :=
  if i.pollClear then pollClear (arrive s i.arrivals) else arrive s i.arrivals

/-- `Step(S, in)` under given inputs (R110): rst preempts everything (R111). -/
def stepWith (i : Inputs) (s : State) : Host.Outcome State Fault Refusal :=
  if i.rst then .next (resetStep i s) else phaseStep i (settle i s)

/-- One step: an ill-formed configuration has no step (spec/00_scope.md R6); a faulted state takes none (spec/10_state.md
R33); otherwise the step runs under this step's draws, with the per-step outputs cleared. -/
def tick (s : State) : Host.Outcome State Fault Refusal :=
  if s.cfg.wellFormed then
    match s.faulted with
    | some k => .fault k
    | none => stepWith (nextInputs s) (fresh s)
  else .refused .illFormedConfiguration

/-! ### Putting a frame before the next step (log 7) -/

/-- A step's inputs in which the environment only offers the head of RX. -/
def offerInputs : Inputs :=
  { rst := false, arrivals := [], rxOffer := true, stAck := false, pollClear := false, resetByte := 0, rxAfterReset := [] }

/-- `offerInputs` with every presented write acknowledged. -/
def ackInputs : Inputs := { offerInputs with stAck := true }

/-- No input asserted. -/
def quietInputs : Inputs := { offerInputs with rxOffer := false }

/-- `s` READY and about to take, in its next step, the LAST of the given bytes: the bytes before it are the frame in
flight, latched as intake latches them. -/
def placeFrame (s : State) (bs : List Byte) : State :=
  let s0 := { finish s with
    phase := .ready, faulted := none, rx := bs.drop (bs.length - 1) ++ s.rx, script := offerInputs :: s.script }
  match bs.take (bs.length - 1) with
  | [] => s0
  | op :: ps =>
    let s1 := { s0 with
      currentOpcode := .held op, inProgress := true, parameterCount := ps.length, buf := storeFrom s0.buf 0 ps }
    if frameClass s1 = .eepromWrite ∧ 3 ≤ s1.parameterCount then setCursor s1 (operandAddress s1) (operandCount s1) else s1

/-- The bytes the machine takes for the frame at the head of a stream: up to the frame's end, or the 34 bytes of a
refused one (R95). -/
def frameOf (c : Config) (bs : List Byte) : List Byte :=
  match decode c bs with
  | .frame _ rest => bs.take (bs.length - rest.length)
  | .paramOverflow rest => bs.take (bs.length - rest.length)
  | .needMore => bs

end Sys2Proof.Machine
end

