-- ==== Sys2Proof/Machine/Step.lean ====
section
/-! DEFINITION. The step function, and an instruction put where the next step takes it. -/
namespace Sys2Proof.Machine

/-- One step (spec/40_frame_accumulator.md R110). -/
def step (s : State) : Host.Outcome State Fault Refusal := tick s

/-- `s` with the frame of a table word before it: all its bytes but the last are taken, and the last is offered, so
that the very next step runs the command (log 7). -/
def State.withFetchWord (s : State) (nbits w : Nat) : State :=
  placeFrame s (frameOf s.cfg (tableBytes nbits w))

end Sys2Proof.Machine
end

