-- ==== Sys2Proof/Machine/Ports.lean ====
section
/-! DEFINITION. The outputs (spec/10_state.md R41) and what `feed` returns (spec/40_frame_accumulator.md R125). -/
namespace Sys2Proof.Machine

/-- `busy`. -/
def busy (s : State) : Bool := decide (s.phase ≠ .ready)

/-- `st_wreq`, by R41's table: a function of the state before the step. DEDUCED (log 11): it is 1 for an address out of
range too. DESIGN CHOICE (log 18): `rst` of the same step has no effect on it. What a step presents to the store, by
R172 and R220, is `presentsWrite`. -/
def stWreq (s : State) : Bool := writePending s

/-- The step under these inputs presents the write of `st_waddr` and `st_wdata`: not with `rst`
(spec/70_reset_and_hazards.md R220, log 18), and not for an address that does not exist, where the step faults before
any request (spec/42_write_sequencer.md R172, log 11). -/
def presentsWrite (i : Inputs) (s : State) : Bool := !i.rst && writeInFlight s

/-- `st_waddr`, no value unless `st_wreq` = 1. -/
def stWaddr (s : State) : Option Word := if stWreq s then some (writeAddr s) else none

/-- `st_wdata`, no value unless `st_wreq` = 1. -/
def stWdata (s : State) : Option Byte :=
  if stWreq s then s.buf[3 + s.curOff.bits.toNat]?.map Reg.bits else none

/-- `sys_reset_req`. -/
def sysResetReq (s : State) : Bool := decide (s.phase = .resetReq)

/-- `poll_armed`. -/
def pollArmedOut (s : State) : Bool := s.pollArmed

/-- `cfg_switch_threshold`, no value before the INIT step (R44). -/
def cfgSwitchThreshold (s : State) : Option Word := s.switchThreshold.value?

/-- `cfg_sonar_divider`. -/
def cfgSonarDivider (s : State) : Option Word := s.sonarDivider.value?

/-- `cfg_threshold_sonar`. -/
def cfgThresholdSonar (s : State) : Option Word := s.thresholdSonar.value?

/-- `cfg_threshold_ir`. -/
def cfgThresholdIR (s : State) : Option Word := s.thresholdIR.value?

/-- `rx_take` of the step that led to this state. -/
def rxTakeOut (s : State) : Bool := s.rxTake

/-- The DispatchOutcome of R125; the frame going on is the absence of one. -/
inductive DispatchOutcome where
  | resetRequested
  | writeStarted (a : Word) (n : Byte)
  | readResponse (a : Word) (v : Byte)
  | pollArmed
  | rejected (r : RejectReason)
  deriving DecidableEq, Repr

/-- What one event says of the dispatch, by the table of R125. -/
def Event.dispatchOutcome : Event → Option DispatchOutcome
  | .resetRequested => some .resetRequested
  | .writeStart a n => some (.writeStarted a n)
  | .readDone a v => some (.readResponse a v)
  | .pollArmed => some .pollArmed
  | .reject r => some (.rejected r)
  | .frameStart _ => none
  | .param _ _ => none
  | .pollCleared => none
  | .writeWait _ _ => none
  | .writeAck _ _ => none
  | .writeDone _ _ => none
  | .refresh _ _ _ _ => none
  | .initDone => none
  | .resetTaken => none

/-- What `feed(byte)` returned in the last step (R125): none when no byte was taken or the frame goes on (log 15). -/
def feedOutcome (s : State) : Option DispatchOutcome :=
  if s.rxTake then s.events.findSome? Event.dispatchOutcome else none

end Sys2Proof.Machine
end

