-- ==== Sys2Proof/Safety.lean ====
section
/-! DEFINITION. What the claims speak of: live and quiescent states, the invariants, what a run must keep. -/
namespace Sys2Proof.Machine

/-- The state takes steps: its configuration is well formed and no fault has been raised (spec/00_scope.md R6, spec/10_state.md R33). -/
def Live (s : State) : Prop := s.cfg.wellFormed = true ∧ s.faulted = none

/-- Idle and READY: the next byte taken is an opcode (spec/30_encoding.md R91). -/
def ReadyIdle (s : State) : Prop := s.phase = .ready ∧ s.inProgress = false

/-- The state the phase action of `s`'s step acts on, when `rst` = 0. -/
def acting (s : State) : State := settle (nextInputs s) (fresh s)

/-- The byte offered to `s` in its step, if any (spec/10_state.md R40). -/
def stepByte (s : State) : Option Byte := offered (nextInputs s) (acting s)

/-- A quiescent state (spec/60_exceptions.md R197). -/
def Quiescent (s : State) : Prop := ReadyIdle s ∧ s.faulted = none ∧ stepByte s = none

/-- The environment only offers: no reset, no poll consumer, nothing arriving, `rx_valid` = 1 while RX holds a byte. -/
def Offers (i : Inputs) : Prop := i.rst = false ∧ i.pollClear = false ∧ i.arrivals = [] ∧ i.rxOffer = true

/-- The environment acknowledges: no reset, no poll consumer, `st_ack` = 1. -/
def Acks (i : Inputs) : Prop := i.rst = false ∧ i.pollClear = false ∧ i.stAck = true

/-- The eight invariants of spec/10_state.md R36. -/
structure FrameInv (s : State) : Prop where
  countBound : s.parameterCount ≤ capacity
  idle : s.inProgress = false → s.parameterCount = 0 ∧ s.curValid = false
  cursor : s.curValid = true →
    s.inProgress = true ∧ s.currentOpcode.bits = s.cfg.opcEepromWrite ∧ 3 ≤ s.parameterCount
  wseq : s.phase = .wseq →
    s.inProgress = true ∧ s.curValid = true ∧ s.parameterCount = s.curCount.bits.toNat + 3 ∧
      s.curOff.bits ≤ s.curCount.bits
  readyCursor : s.phase = .ready → s.curValid = true → s.parameterCount < s.curCount.bits.toNat + 3
  stopped : s.phase = .init ∨ s.phase = .resetReq → s.inProgress = false
  cacheHeld : s.phase ≠ .init →
    s.switchThreshold.hasValue = true ∧ s.sonarDivider.hasValue = true ∧
      s.thresholdSonar.hasValue = true ∧ s.thresholdIR.hasValue = true
  readShort : s.inProgress = true → s.currentOpcode.bits = s.cfg.opcEepromRead → s.parameterCount ≤ 1

/-- What the registers of a frame in flight hold: every register a rule reads has a value (spec/00_scope.md R9,
spec/10_state.md R23, R25, R27), and the cursor is the frame's address and count (R26, R27). -/
structure LatchInv (s : State) : Prop where
  opcodeHeld : s.inProgress = true → s.currentOpcode.hasValue = true
  paramsHeld : ∀ k (h : k < capacity), k < s.parameterCount → s.buf[k].hasValue = true
  cursorHeld : s.curValid = true →
    s.curCount.hasValue = true ∧ s.curAddr.hasValue = true ∧ s.curOff.hasValue = true
  cursorOperands : s.curValid = true →
    s.curCount.bits = operandCount s ∧ s.curAddr.bits = operandAddress s
  readyOffset : s.phase = .ready → s.curValid = true → s.curOff.bits = 0
  captured : s.inProgress = true → frameClass s = .eepromWrite → 3 ≤ s.parameterCount → s.curValid = true
  inFlightClass : s.inProgress = true → frameClass s = .eepromWrite ∨ frameClass s = .eepromRead

/-- The store is in its canonical form and lists implemented addresses only (spec/20_memory.md R60). -/
structure MemInv (s : State) : Prop where
  canonical : Memory.wf s.mem = true
  implemented : ∀ cell ∈ s.mem, cell.1 < s.cfg.storeSize

/-- Cache coherence (spec/20_memory.md R73): in READY each field is the word Refresh would assemble. -/
def CacheInv (s : State) : Prop :=
  s.phase = .ready →
    configWords s = some (s.switchThreshold.bits, s.sonarDivider.bits, s.thresholdSonar.bits, s.thresholdIR.bits)

/-- The invariant of the states no fault has left: the frame registers, the latches and the cache. -/
structure Inv (s : State) : Prop where
  frame : FrameInv s
  latch : LatchInv s
  cache : CacheInv s

/-- Every configuration address pair and every store address exists: nothing can be out of range. -/
def FullStore (s : State) : Prop := s.cfg.storeSize = 65536

/-- A register with the bits it holds without a value forgotten. -/
def Reg.forget {α : Type} (z : α) (r : Reg α) : Reg α := if r.hasValue then r else Reg.noValue z

/-- The state with all that registers hold without a value forgotten (spec/00_scope.md R9). -/
def forgetUnheld (s : State) : State :=
  { s with
    currentOpcode := s.currentOpcode.forget 0
    buf := s.buf.map (Reg.forget 0)
    curCount := s.curCount.forget 0, curAddr := s.curAddr.forget 0, curOff := s.curOff.forget 0
    switchThreshold := s.switchThreshold.forget 0, sonarDivider := s.sonarDivider.forget 0
    thresholdSonar := s.thresholdSonar.forget 0, thresholdIR := s.thresholdIR.forget 0 }

/-- `forgetUnheld` on a step's outcome. -/
def forgetOutcome : Host.Outcome State Fault Refusal → Host.Outcome State Fault Refusal
  | .next t => .next (forgetUnheld t)
  | .fault k => .fault k
  | .refused r => .refused r

end Sys2Proof.Machine
end

