-- ==== Sys2Proof/Certificates/Slice0/Obligations.lean ====
section
/-! DEFINITION. The statements about the Serial command dispatcher, from the numbered rules of spec/. -/

open Sys2Proof Sys2Proof.Machine

/-! ### Encoding -/

/-- R92: the opcode decoder gives each of the four values its command and every other byte UNRECOGNIZED. -/
def Obligations.OpcodeByteDecodes : Prop :=
  ∀ c : Config, c.wellFormed = true →
    decodeClass c c.opcReset = .reset ∧ decodeClass c c.opcEepromWrite = .eepromWrite ∧
    decodeClass c c.opcEepromRead = .eepromRead ∧ decodeClass c c.opcPollSonar = .pollSonar ∧
    ∀ b, b ≠ c.opcReset → b ≠ c.opcEepromWrite → b ≠ c.opcEepromRead → b ≠ c.opcPollSonar →
      decodeClass c b = .unrecognized

/-- R96: whatever the four opcode values are, exactly four of the 256 bytes are commands and 252 are not. -/
def Obligations.FourOpcodesAreCommands : Prop :=
  ∀ c : Config, c.wellFormed = true →
    ((List.range 256).filter fun k => decodeClass c (BitVec.ofNat 8 k) = .unrecognized).length = 252 ∧
    ∀ b, decodeClass c b ≠ .unrecognized ↔
      b = c.opcReset ∨ b = c.opcEepromWrite ∨ b = c.opcEepromRead ∨ b = c.opcPollSonar

/-- R93, R94: decoding the frame of any well-formed command, with every operand at every value and any bytes after it,
gives the command and the bytes after it. -/
def Obligations.DecodeOfEncode : Prop :=
  ∀ (c : Config) (i : Instr) (rest : List Byte), c.wellFormed = true → i.wellFormed c = true →
    decode c (encode c i ++ rest) = .frame i rest

/-- R93, R95, the other direction: what decodes to a command is that command's frame, and the command is well formed. -/
def Obligations.EncodeOfDecode : Prop :=
  ∀ (c : Config) (i : Instr) (bs rest : List Byte), c.wellFormed = true → decode c bs = .frame i rest →
    i.wellFormed c = true ∧ encode c i ++ rest = bs

/-- R95: an EEPROM_WRITE frame that declares 30 or more data bytes never completes, however many bytes follow: it
waits for its 34th byte and is then refused, with those 34 bytes consumed. -/
def Obligations.OverlongWriteNeverCompletes : Prop :=
  ∀ (c : Config) (aH aL n : Byte) (ds : List Byte), c.wellFormed = true → 30 ≤ n.toNat →
    decode c (c.opcEepromWrite :: aH :: aL :: n :: ds) =
      if 30 ≤ ds.length then .paramOverflow (ds.drop 30) else .needMore

/-- Words written out from R93 under TC decode to their commands. -/
def Obligations.TableWordsDecode : Prop :=
  decodeTableWord 8 0x01 = some .reset ∧
  decodeTableWord 56 0xCCBBAA03100002 = some (.eepromWrite 0x0010 3 [0xAA, 0xBB, 0xCC]) ∧
  decodeTableWord 24 0x050003 = some (.eepromRead 0x0005) ∧
  decodeTableWord 8 0x04 = some .pollSonar ∧ decodeTableWord 8 0xFF = some (.unrecognized 0xFF)

/-! ### What each command does, and that it completes -/

/-- R140: RESET ends its frame and raises the system-reset request; nothing else of the state changes. -/
def Obligations.ResetRaisesRequest : Prop :=
  ∀ s : State, exec .reset s = .next { s with
    inProgress := false, parameterCount := 0, curValid := false, phase := .resetReq
    events := s.events ++ [.resetRequested] }

/-- R160: POLL_SONAR arms the one poll request, whether or not it is armed, and ends its frame. -/
def Obligations.PollSonarArms : Prop :=
  ∀ s : State, exec .pollSonar s = .next { s with
    pollArmed := true, inProgress := false, parameterCount := 0, curValid := false
    events := s.events ++ [.pollArmed] }

/-- R164, R121: an unrecognised opcode, whatever the byte, ends its frame and leaves nothing but the REJECT event. -/
def Obligations.UnrecognizedIsDropped : Prop :=
  ∀ (b : Byte) (s : State), exec (.unrecognized b) s = .next { s with
    inProgress := false, parameterCount := 0, curValid := false
    events := s.events ++ [.reject .unrecognizedOpcode] }

/-- R150, R157: EEPROM_READ of an implemented address appends exactly the six response bytes of the byte stored there
and ends its frame; nothing else of the state changes. -/
def Obligations.ReadAnswersStoredByte : Prop :=
  ∀ (a : Word) (s : State), a.toNat < s.cfg.storeSize →
    exec (.eepromRead a) s = .next { s with
      tx := s.tx ++ [0x30, 0x20, hexDigit ((s.mem.read a.toNat).extractLsb' 4 4),
        hexDigit ((s.mem.read a.toNat).extractLsb' 0 4), 0x0A, 0x0D]
      inProgress := false, parameterCount := 0, curValid := false
      events := s.events ++ [.readDone a (s.mem.read a.toNat)] }

/-- R153: the hex digit of each 4-bit value. -/
def Obligations.HexDigitCodes : Prop :=
  ∀ x : BitVec 4,
    (x.toNat ≤ 9 → (hexDigit x).toNat = 0x30 + x.toNat) ∧
    (10 ≤ x.toNat → (hexDigit x).toNat = 0x41 + (x.toNat - 10))

/-- R62, R195: EEPROM_READ of an address at or above STORE_SIZE raises F_STORE_RANGE and does nothing more: no byte on
TX, and the frame does not end. -/
def Obligations.ReadOutOfRangeFaults : Prop :=
  ∀ (a : Word) (s : State), s.cfg.storeSize ≤ a.toNat →
    exec (.eepromRead a) s = .next { s with faulted := some .storeRange }

/-- R142, R143: a complete EEPROM_WRITE frame starts the write sequencer: phase WSEQ, the cursor at its address, its
count and offset 0, the data bytes in `buf[3 ..]`, the frame still in flight; the step writes no store byte, appends
nothing to TX and leaves the cache and the poll flag. That exec also latches the operands is the model's form (log 12). -/
def Obligations.WriteStartsSequence : Prop :=
  ∀ (a : Word) (n : Byte) (d : List Byte) (s : State), (Instr.eepromWrite a n d).wellFormed s.cfg = true →
    ∃ t, exec (.eepromWrite a n d) s = .next t ∧ t.phase = .wseq ∧ t.inProgress = true ∧
      t.currentOpcode = .held s.cfg.opcEepromWrite ∧ t.parameterCount = n.toNat + 3 ∧
      t.curValid = true ∧ t.curCount = .held n ∧ t.curAddr = .held a ∧ t.curOff = .held 0 ∧
      operandAddress t = a ∧ operandCount t = n ∧ operandData t n = d ∧
      t.mem = s.mem ∧ t.tx = s.tx ∧ t.pollArmed = s.pollArmed ∧
      t.switchThreshold = s.switchThreshold ∧ t.sonarDivider = s.sonarDivider ∧
      t.thresholdSonar = s.thresholdSonar ∧ t.thresholdIR = s.thresholdIR ∧
      t.events = s.events ++ [.writeStart a n]

/-! ### Frames -/

/-- What RESET, POLL_SONAR and UNRECOGNIZED leave alone: every register but the frame's status bits, the phase (RESET
only) and the poll flag (POLL_SONAR only); the ConfigCache; TX; RX; every byte of the store. -/
def Obligations.OpcodeOnlyCommandsFrame : Prop :=
  ∀ (i : Instr) (s t : State), (i = .reset ∨ i = .pollSonar ∨ ∃ b, i = .unrecognized b) → exec i s = .next t →
    t.cfg = s.cfg ∧ (i ≠ .reset → t.phase = s.phase) ∧ (i ≠ .pollSonar → t.pollArmed = s.pollArmed) ∧
    t.currentOpcode = s.currentOpcode ∧ t.buf = s.buf ∧ t.curCount = s.curCount ∧ t.curAddr = s.curAddr ∧
    t.curOff = s.curOff ∧ t.switchThreshold = s.switchThreshold ∧ t.sonarDivider = s.sonarDivider ∧
    t.thresholdSonar = s.thresholdSonar ∧ t.thresholdIR = s.thresholdIR ∧ t.faulted = s.faulted ∧
    t.tx = s.tx ∧ t.rx = s.rx ∧ t.rxTake = s.rxTake ∧ t.script = s.script ∧ t.draws = s.draws ∧
    ∀ x, t.mem.read x = s.mem.read x

/-- What EEPROM_READ leaves alone, whether it reads or faults: everything but TX, the frame's status bits, the event
list and the fault mark; every byte of the store. -/
def Obligations.ReadFrame : Prop :=
  ∀ (a : Word) (s t : State), exec (.eepromRead a) s = .next t →
    t.cfg = s.cfg ∧ t.phase = s.phase ∧ t.pollArmed = s.pollArmed ∧
    t.currentOpcode = s.currentOpcode ∧ t.buf = s.buf ∧ t.curCount = s.curCount ∧ t.curAddr = s.curAddr ∧
    t.curOff = s.curOff ∧ t.switchThreshold = s.switchThreshold ∧ t.sonarDivider = s.sonarDivider ∧
    t.thresholdSonar = s.thresholdSonar ∧ t.thresholdIR = s.thresholdIR ∧
    t.rx = s.rx ∧ t.rxTake = s.rxTake ∧ t.script = s.script ∧ t.draws = s.draws ∧
    ∀ x, t.mem.read x = s.mem.read x

/-- What the step that starts an EEPROM_WRITE leaves alone: everything but the frame's own registers, the phase and the
event list; buffer bytes past the frame's last parameter; every byte of the store. -/
def Obligations.WriteStartFrame : Prop :=
  ∀ (a : Word) (n : Byte) (d : List Byte) (s t : State), exec (.eepromWrite a n d) s = .next t →
    t.cfg = s.cfg ∧ t.pollArmed = s.pollArmed ∧ t.switchThreshold = s.switchThreshold ∧
    t.sonarDivider = s.sonarDivider ∧ t.thresholdSonar = s.thresholdSonar ∧ t.thresholdIR = s.thresholdIR ∧
    t.faulted = s.faulted ∧ t.tx = s.tx ∧ t.rx = s.rx ∧ t.rxTake = s.rxTake ∧ t.script = s.script ∧
    t.draws = s.draws ∧ (∀ k (h : k < capacity), 3 + d.length ≤ k → t.buf[k] = s.buf[k]) ∧
    ∀ x, t.mem.read x = s.mem.read x

/-! ### Taking bytes -/

/-- R110: a state with a well-formed configuration and no fault always has a step. -/
def Obligations.LiveStateSteps : Prop := ∀ s : State, Live s → ∃ t, step s = .next t

/-- R6: an ill-formed configuration (two equal opcode values, or, log 2, a store size outside 1 .. 65536) is refused as
a whole: no state under it has a step. -/
def Obligations.IllFormedConfigurationRefused : Prop :=
  ∀ s : State, s.cfg.wellFormed = false → step s = .refused .illFormedConfiguration

/-- R33: a faulted state takes no further step, whatever its inputs, rst among them. -/
def Obligations.FaultedTakesNoStep : Prop :=
  ∀ (s : State) (k : Fault), s.cfg.wellFormed = true → s.faulted = some k → step s = .fault k

/-- A STEP RUNS THE DECODED COMMAND: when the bytes of the frame in flight and the offered byte are a complete frame,
the step is exec of its command, on the state whose intake has taken the byte (the inputs sampled, `poll_clear`
applied, the byte gone from RX, the opcode or the parameter and the cursor latched). -/
def Obligations.DecodedFrameRuns : Prop :=
  ∀ (s : State) (b : Byte) (i : Instr), Live s → FrameInv s → LatchInv s → s.phase = .ready →
    (nextInputs s).rst = false → stepByte s = some b → decode s.cfg (frameBytes s ++ [b]) = .frame i [] →
    step s = exec i (intake b (takeHead (acting s)))

/-- R119: when they are no complete frame yet, the byte is latched and the frame goes on. -/
def Obligations.UnfinishedFrameGoesOn : Prop :=
  ∀ (s : State) (b : Byte), Live s → FrameInv s → LatchInv s → s.phase = .ready →
    (nextInputs s).rst = false → stepByte s = some b → decode s.cfg (frameBytes s ++ [b]) = .needMore →
    step s = .next (intake b (takeHead (acting s)))

/-- R114: a byte taken while idle is an opcode whatever its value: it is latched in currentOpcode, and the step's first
event after those of `poll_clear` is FRAME_START. It writes no buffer element, no store byte and nothing to TX. Where it is
the opcode of a frame that goes on, EEPROM_READ or EEPROM_WRITE, the frame is in progress afterwards and nothing more
happens. -/
def Obligations.OpcodeByteStartsFrame : Prop :=
  ∀ (s : State) (b : Byte), Live s → ReadyIdle s → (nextInputs s).rst = false → stepByte s = some b →
    ∃ t, step s = .next t ∧ t.currentOpcode = .held b ∧ t.parameterCount = 0 ∧ t.rxTake = true ∧
      t.rx = (s.rx ++ (nextInputs s).arrivals).tail ∧ t.buf = s.buf ∧ t.mem = s.mem ∧ t.tx = s.tx ∧
      (∃ es, t.events = (acting s).events ++ .frameStart b :: es) ∧
      (b = s.cfg.opcEepromRead ∨ b = s.cfg.opcEepromWrite →
        t.inProgress = true ∧ t.phase = .ready ∧ t.curValid = s.curValid ∧
          t.events = (acting s).events ++ [.frameStart b])

/-- R91, R117: a byte taken while a frame is in flight and the buffer is not full is its next parameter, whatever its
value: the opcode stays and the byte lands in `buf[parameterCount]`, every other element unchanged. -/
def Obligations.ParameterByteIsData : Prop :=
  ∀ (s t : State) (b : Byte), FrameInv s → LatchInv s → s.phase = .ready → s.inProgress = true →
    (h : s.parameterCount < capacity) → (nextInputs s).rst = false → stepByte s = some b → step s = .next t →
    t.currentOpcode = s.currentOpcode ∧ t.rxTake = true ∧ t.buf[s.parameterCount] = .held b ∧
    (∀ k (hk : k < capacity), k ≠ s.parameterCount → t.buf[k] = s.buf[k]) ∧
    ∃ es, t.events = (acting s).events ++ .param s.parameterCount b :: es

/-- R116: a parameter byte taken with a full buffer is consumed and discarded, and the frame is rejected with reason
PARAM_OVERFLOW: no store write, no Refresh, the buffer, the cache, the poll flag and TX unchanged. -/
def Obligations.FullBufferRejects : Prop :=
  ∀ (s : State) (b : Byte), Live s → s.phase = .ready → s.inProgress = true → s.parameterCount = capacity →
    (nextInputs s).rst = false → stepByte s = some b →
    ∃ t, step s = .next t ∧ t.phase = .ready ∧ t.inProgress = false ∧ t.parameterCount = 0 ∧ t.curValid = false ∧
      t.rxTake = true ∧ t.buf = s.buf ∧ t.mem = s.mem ∧ t.tx = s.tx ∧ t.pollArmed = (acting s).pollArmed ∧
      t.switchThreshold = s.switchThreshold ∧ t.sonarDivider = s.sonarDivider ∧
      t.thresholdSonar = s.thresholdSonar ∧ t.thresholdIR = s.thresholdIR ∧ t.faulted = none ∧
      t.events = (acting s).events ++ [.reject .paramOverflow]

/-- R124: a READY step with no byte offered takes none and changes no dispatcher state; only bytes arriving in RX and
`poll_clear` act. -/
def Obligations.NoByteNoChange : Prop :=
  ∀ s : State, Live s → s.phase = .ready → (nextInputs s).rst = false → stepByte s = none → step s = .next (acting s)

/-- R110, R113: a step without rst takes at most the byte offered, which leaves the head of RX, and takes it in READY
only; no byte is lost or reordered. -/
def Obligations.BytesAreTakenOnceInOrder : Prop :=
  ∀ s t : State, (nextInputs s).rst = false → step s = .next t →
    (t.rxTake = true ∧ s.phase = .ready ∧ ∃ b, stepByte s = some b ∧ s.rx ++ (nextInputs s).arrivals = b :: t.rx) ∨
    (t.rxTake = false ∧ t.rx = s.rx ++ (nextInputs s).arrivals ∧ (s.phase = .ready → stepByte s = none))

/-! ### Reset and startup -/

/-- R44, R220, R222: a step with rst = 1, in any phase, leaves the reset state: the registers idle or without a value,
TX kept, RX as the environment chooses, and the store unchanged but for the byte of a write in flight, which becomes
the draw. (That no byte changes for a write address out of range is the model's reading, log 11.) -/
def Obligations.ResetLeavesResetState : Prop :=
  ∀ s : State, Live s → (nextInputs s).rst = true →
    ∃ t, step s = .next t ∧ t.phase = .init ∧ t.inProgress = false ∧ t.parameterCount = 0 ∧ t.curValid = false ∧
      t.pollArmed = false ∧ t.currentOpcode.hasValue = false ∧
      (∀ k (h : k < capacity), t.buf[k].hasValue = false) ∧ t.curCount.hasValue = false ∧
      t.curAddr.hasValue = false ∧ t.curOff.hasValue = false ∧ t.switchThreshold.hasValue = false ∧
      t.sonarDivider.hasValue = false ∧ t.thresholdSonar.hasValue = false ∧ t.thresholdIR.hasValue = false ∧
      t.faulted = none ∧ t.cfg = s.cfg ∧ t.tx = s.tx ∧ t.rx = (nextInputs s).rxAfterReset ∧ t.rxTake = false ∧
      t.events = [.resetTaken] ∧
      (∀ x, ¬(writeInFlight s = true ∧ x = (writeAddr s).toNat) → t.mem.read x = s.mem.read x) ∧
      (Memory.wf s.mem = true → writeInFlight s = true →
        t.mem.read (writeAddr s).toNat = (nextInputs s).resetByte)

/-- R111, R195: rst preempts everything in its step: nothing but the draw of R222 and what RX holds afterwards depends
on the other inputs, an acknowledgement, an offered byte and poll_clear among them. -/
def Obligations.ResetPreemptsInputs : Prop :=
  ∀ (s : State) (i j : Inputs), i.rst = true → j.rst = true → i.resetByte = j.resetByte →
    i.rxAfterReset = j.rxAfterReset → stepWith i s = stepWith j s

/-- R221, R70, R71: the INIT step loads the four cache fields from the store's eight configuration bytes, high byte at
the lower address, all at once, and makes the SCD READY; it takes no byte and changes no store byte. -/
def Obligations.InitStepRefreshes : Prop :=
  ∀ s : State, Live s → s.phase = .init → (nextInputs s).rst = false →
    (∀ f, (configAddr s.cfg f).toNat < s.cfg.storeSize ∧ (configAddr s.cfg f + 1).toNat < s.cfg.storeSize) →
    let word := fun f => assemble (s.mem.read (configAddr s.cfg f).toNat) (s.mem.read (configAddr s.cfg f + 1).toNat)
    step s = .next { acting s with
      phase := .ready
      switchThreshold := .held (word .switchThreshold), sonarDivider := .held (word .sonarDivider)
      thresholdSonar := .held (word .thresholdSonar), thresholdIR := .held (word .thresholdIR)
      events := (acting s).events ++ [.refresh (word .switchThreshold) (word .sonarDivider) (word .thresholdSonar)
        (word .thresholdIR), .initDone] }

/-- R70: where one of the eight configuration addresses is out of range the INIT step faults and no field changes. -/
def Obligations.InitStepFaultsOutOfRange : Prop :=
  ∀ s : State, Live s → s.phase = .init → (nextInputs s).rst = false →
    (∃ f, s.cfg.storeSize ≤ (configAddr s.cfg f).toNat ∨ s.cfg.storeSize ≤ (configAddr s.cfg f + 1).toNat) →
    step s = .next { acting s with faulted := some .storeRange }

/-! ### The write sequencer -/

/-- R172: the write step. With an acknowledgement the data byte at the offset is stored at its address and the offset
grows by one; without one nothing changes but the WRITE_WAIT event. No other byte of the store changes, and no other
register. -/
def Obligations.WriteStepStoresOnAck : Prop :=
  ∀ s : State, Live s → FrameInv s → s.phase = .wseq → (nextInputs s).rst = false →
    s.curOff.bits < s.curCount.bits → (writeAddr s).toNat < s.cfg.storeSize →
    ∃ d, bufByte? s (3 + s.curOff.bits.toNat) = some d ∧
      step s = .next (
        if (nextInputs s).stAck then
          { acting s with
            mem := s.mem.write (writeAddr s).toNat d, curOff := .held (s.curOff.bits + 1)
            events := (acting s).events ++ [.writeAck (writeAddr s) d] }
        else { acting s with events := (acting s).events ++ [.writeWait (writeAddr s) d] }) ∧
      (∀ x, x ≠ (writeAddr s).toNat → (s.mem.write (writeAddr s).toNat d).read x = s.mem.read x) ∧
      (Memory.wf s.mem = true → (s.mem.write (writeAddr s).toNat d).read (writeAddr s).toNat = d)

/-- R172: a data byte out of range faults before any request: no byte is stored, the offset stays, and the step presents
no write, although the output st_wreq of R41's table is 1 (log 11). -/
def Obligations.WriteStepFaultsOutOfRange : Prop :=
  ∀ s : State, Live s → FrameInv s → s.phase = .wseq → (nextInputs s).rst = false →
    s.curOff.bits < s.curCount.bits → s.cfg.storeSize ≤ (writeAddr s).toNat →
    step s = .next { acting s with faulted := some .storeRange } ∧ stWreq s = true ∧
      presentsWrite (nextInputs s) s = false

/-- R173: the finishing step, once every data byte is written: it refreshes the cache from the store and makes the
dispatcher idle and READY, in one step; where a Refresh address is out of range it faults and nothing else changes. -/
def Obligations.FinishingStepRefreshes : Prop :=
  ∀ s : State, Live s → s.phase = .wseq → (nextInputs s).rst = false → s.curOff.bits = s.curCount.bits →
    (∀ w0 w1 w2 w3, configWords s = some (w0, w1, w2, w3) →
      step s = .next { acting s with
        phase := .ready, inProgress := false, parameterCount := 0, curValid := false
        switchThreshold := .held w0, sonarDivider := .held w1, thresholdSonar := .held w2, thresholdIR := .held w3
        events := (acting s).events ++ [.refresh w0 w1 w2 w3, .writeDone s.curAddr.bits s.curCount.bits] }) ∧
    (configWords s = none → step s = .next { acting s with faulted := some .storeRange })

/-- R174: without an acknowledgement and without rst the sequencer, with a write to present, waits for ever: after any number of such steps it
presents the same request, no byte has been taken, no store byte has changed and no Refresh has run. -/
def Obligations.WriteWaitsForAck : Prop :=
  ∀ (s : State) (is rest : List Inputs), Live s → FrameInv s → stWreq s = true →
    (writeAddr s).toNat < s.cfg.storeSize →
    s.script = is ++ rest → (∀ i ∈ is, i.rst = false ∧ i.stAck = false) →
    ∃ t : State, Sys2Proof.core.run is.length s = .next t ∧ t.phase = .wseq ∧ stWreq t = true ∧
      stWaddr t = stWaddr s ∧ stWdata t = stWdata s ∧ t.mem = s.mem ∧ t.rx = s.rx ++ is.flatMap Inputs.arrivals ∧
      t.tx = s.tx ∧ t.switchThreshold = s.switchThreshold ∧ t.sonarDivider = s.sonarDivider ∧
      t.thresholdSonar = s.thresholdSonar ∧ t.thresholdIR = s.thresholdIR ∧ t.inProgress = true

/-- R141: in RESETREQ, without rst, the SCD waits for ever: it takes no byte, makes no store access and holds
sys_reset_req; poll_clear still clears the poll flag. -/
def Obligations.ResetRequestWaitsForReset : Prop :=
  ∀ (s : State) (is rest : List Inputs), Live s → s.phase = .resetReq → s.script = is ++ rest →
    (∀ i ∈ is, i.rst = false) →
    ∃ t : State, Sys2Proof.core.run is.length s = .next t ∧ sysResetReq t = true ∧ t.mem = s.mem ∧ t.tx = s.tx ∧
      t.rx = s.rx ++ is.flatMap Inputs.arrivals ∧
      t.pollArmed = (s.pollArmed && !is.any Inputs.pollClear)

/-- The spec's own inference of R144: the whole effect of an EEPROM_WRITE frame, every write acknowledged and no reset or
fault intervening: the n data bytes at `a + k` modulo 2^16, no other byte changed, the cache a Refresh of the new store,
the dispatcher idle, TX and the poll flag unchanged. It starts from exec in any READY state, which latches the operands:
the model's form (log 12). -/
def Obligations.WriteFrameWholeEffect : Prop :=
  ∀ (a : Word) (n : Byte) (d : List Byte) (s u : State) (is rest : List Inputs), Live s → FrameInv s →
    s.phase = .ready → Memory.wf s.mem = true →
    (Instr.eepromWrite a n d).wellFormed s.cfg = true → exec (.eepromWrite a n d) s = .next u →
    s.script = is ++ rest → is.length = d.length + 1 → (∀ i ∈ is, Acks i) →
    (∀ k, k < d.length → (a + BitVec.ofNat 16 k).toNat < s.cfg.storeSize) →
    (∀ f, (configAddr s.cfg f).toNat < s.cfg.storeSize ∧ (configAddr s.cfg f + 1).toNat < s.cfg.storeSize) →
    ∃ t : State, Sys2Proof.core.run is.length u = .next t ∧
      (∀ k (h : k < d.length), t.mem.read (a + BitVec.ofNat 16 k).toNat = d[k]) ∧
      (∀ x, (∀ k, k < d.length → x ≠ (a + BitVec.ofNat 16 k).toNat) → t.mem.read x = s.mem.read x) ∧
      CacheInv t ∧ t.phase = .ready ∧ t.inProgress = false ∧ t.parameterCount = 0 ∧ t.curValid = false ∧
      t.tx = s.tx ∧ t.pollArmed = s.pollArmed ∧ t.faulted = none

/-- R93, R95, R113: a frame on RX runs its command. From READY and idle, with every byte offered, the SCD takes exactly
the frame's bytes, one a step, and its last step is exec of the frame's command, on a state whose store, TX, cache and
poll flag no byte of the frame has changed. -/
def Obligations.FrameOnRxRunsItsCommand : Prop :=
  ∀ (s : State) (i : Instr) (tail : List Byte) (is rest : List Inputs), Live s → FrameInv s → ReadyIdle s →
    i.wellFormed s.cfg = true → s.rx = encode s.cfg i ++ tail → s.script = is ++ rest →
    is.length = i.frameLength → (∀ x ∈ is, Offers x) →
    ∃ u : State, Sys2Proof.core.run is.length s = exec i u ∧ u.cfg = s.cfg ∧ u.phase = .ready ∧ u.faulted = none ∧
      u.mem = s.mem ∧ u.tx = s.tx ∧ u.rx = tail ∧ u.pollArmed = s.pollArmed ∧ u.script = rest ∧
      u.switchThreshold = s.switchThreshold ∧ u.sonarDivider = s.sonarDivider ∧
      u.thresholdSonar = s.thresholdSonar ∧ u.thresholdIR = s.thresholdIR

/-- R116, R95: an EEPROM_WRITE frame that declares 30 or more bytes, with 30 data bytes sent: after its 34 bytes the SCD
is idle and READY without a fault, and the store, TX, the cache and the poll flag are as before. (currentOpcode and the
buffer hold what R114 and R117 put there.) -/
def Obligations.OverlongWriteFrameLeavesNothing : Prop :=
  ∀ (s : State) (aH aL n : Byte) (ds tail : List Byte) (is rest : List Inputs), Live s → FrameInv s → ReadyIdle s →
    30 ≤ n.toNat → ds.length = 30 → s.rx = s.cfg.opcEepromWrite :: aH :: aL :: n :: ds ++ tail →
    s.script = is ++ rest → is.length = 34 → (∀ x ∈ is, Offers x) →
    ∃ t : State, Sys2Proof.core.run is.length s = .next t ∧ ReadyIdle t ∧ t.parameterCount = 0 ∧ t.curValid = false ∧
      t.faulted = none ∧ t.mem = s.mem ∧ t.tx = s.tx ∧ t.rx = tail ∧ t.pollArmed = s.pollArmed ∧
      t.events = [.reject .paramOverflow] ∧
      t.switchThreshold = s.switchThreshold ∧ t.sonarDivider = s.sonarDivider ∧
      t.thresholdSonar = s.thresholdSonar ∧ t.thresholdIR = s.thresholdIR

/-- R99: SET_CONFIG's frame: once it is written, with every write acknowledged and the store holding the eight
configuration bytes, the configuration word it names is the word it carries. R99 promises this where no other
configuration word overlaps it; that it holds with an overlap too follows from R66, R70, R172 and R173 (the frame writes
the field's own two bytes, and Refresh reads them). It starts from exec in any READY state, which latches the operands:
the model's form (log 12). -/
def Obligations.SetConfigSetsItsField : Prop :=
  ∀ (f : ConfigField) (w : Word) (s u : State) (is rest : List Inputs), Live s → FrameInv s →
    s.phase = .ready → Memory.wf s.mem = true →
    exec (.eepromWrite (configAddr s.cfg f) 2 [hiByte w, loByte w]) s = .next u →
    s.script = is ++ rest → is.length = 3 → (∀ i ∈ is, Acks i) →
    (∀ g, (configAddr s.cfg g).toNat < s.cfg.storeSize ∧ (configAddr s.cfg g + 1).toNat < s.cfg.storeSize) →
    (setConfig s.cfg f w).spell s.cfg = encode s.cfg (.eepromWrite (configAddr s.cfg f) 2 [hiByte w, loByte w]) ∧
    ∃ t : State, Sys2Proof.core.run 3 u = .next t ∧
      (match f with
        | .switchThreshold => cfgSwitchThreshold t
        | .sonarDivider => cfgSonarDivider t
        | .thresholdSonar => cfgThresholdSonar t
        | .thresholdIR => cfgThresholdIR t) = some w

/-! ### Invariants -/

/-- R36: the eight invariants of the frame registers hold after every step that raises no fault. -/
def Obligations.FrameInvariantsKept : Prop :=
  ∀ s t : State, FrameInv s → step s = .next t → t.faulted = none → FrameInv t

/-- R9, R23, R25 to R27: in a state with those invariants, a step keeps that every register a rule reads of the frame in
flight holds a value and that the cursor is the frame's own address and count. -/
def Obligations.LatchInvariantsKept : Prop :=
  ∀ s t : State, FrameInv s → LatchInv s → step s = .next t → t.faulted = none → LatchInv t

/-- R60: every step keeps the store's canonical form (the model's, log 4) and lists no address at or above STORE_SIZE. -/
def Obligations.StoreInvariantKept : Prop := ∀ s t : State, MemInv s → step s = .next t → MemInv t

/-- R73: cache coherence: after every step that raises no fault, in READY each cache field is the word Refresh would
assemble from the store. -/
def Obligations.CacheCoherenceKept : Prop :=
  ∀ s t : State, CacheInv s → step s = .next t → t.faulted = none → CacheInv t

/-- R44, R223: every invariant holds at the start of a run, under every configuration and every launch image: the store's
for every image in canonical form (log 4) that lists implemented addresses only, the others whatever the image. The
machine's own reset state is such a start (TC and a store with nothing listed, log 1, log 4), live and in INIT. -/
def Obligations.StartMeetsInvariants : Prop :=
  (∀ c m0 rx script, Inv (State.start c m0 rx script)) ∧
    (∀ c m0 rx script, Memory.wf m0 = true → (∀ cell ∈ m0, cell.1 < c.storeSize) →
      MemInv (State.start c m0 rx script)) ∧
    MemInv State.reset ∧ Live State.reset ∧ State.reset.phase = .init

/-- R36, R196: from a state that meets the invariants no step raises F_UNREACHABLE. -/
def Obligations.UnreachableIsNeverRaised : Prop :=
  ∀ s t : State, FrameInv s → LatchInv s → step s = .next t → t.faulted ≠ some .unreachable

/-- R196, R62, R63: with STORE_SIZE = 65536 no step raises any fault, so the machine goes on for ever. -/
def Obligations.FullStoreNeverFaults : Prop :=
  ∀ s t : State, FrameInv s → LatchInv s → FullStore s → step s = .next t → t.faulted = none

/-- R9: no rule reads a register that holds no value: forgetting the bits of every such register before a step changes
nothing of its outcome but those bits. (So the zeros the model names for them, log 3, decide nothing.) -/
def Obligations.UnheldRegistersAreNeverRead : Prop :=
  ∀ s : State, FrameInv s → LatchInv s →
    forgetOutcome (step (forgetUnheld s)) = forgetOutcome (step s)

/-! ### Rules over every command and every input -/

/-- R65, R63, R222: a byte of the store changes only in WSEQ at the sequencer's address: by an acknowledged write of the
data byte, or by a reset during the write. -/
def Obligations.StoreChangesOnlyByTheSequencer : Prop :=
  ∀ (s t : State) (x : Nat), step s = .next t → t.mem.read x ≠ s.mem.read x →
    s.phase = .wseq ∧ stWreq s = true ∧ x = (writeAddr s).toNat ∧ x < s.cfg.storeSize ∧
      ((nextInputs s).rst = true ∨ (nextInputs s).stAck = true)

/-- R34, R152: TX is only appended to, and only a READY step that takes the last byte of an EEPROM_READ frame, its second
address byte, appends: the six bytes of the response for the byte stored at the frame's address. -/
def Obligations.TxGrowsOnlyByReads : Prop :=
  ∀ s t : State, step s = .next t →
    t.tx = s.tx ∨
    (s.phase = .ready ∧ s.inProgress = true ∧ frameClass s = .eepromRead ∧ s.parameterCount = 1 ∧ t.rxTake = true ∧
      ∃ b, stepByte s = some b ∧ (assemble s.buf[0].bits b).toNat < s.cfg.storeSize ∧
        t.tx = s.tx ++ response (s.mem.read (assemble s.buf[0].bits b).toNat))

/-- R31, R72: the cache fields change only in a reset, in the INIT step and in the finishing step of an EEPROM_WRITE
frame, and in the last two all four are the words of the store. -/
def Obligations.CacheChangesOnlyByRefresh : Prop :=
  ∀ s t : State, step s = .next t → (nextInputs s).rst = false →
    (t.switchThreshold = s.switchThreshold ∧ t.sonarDivider = s.sonarDivider ∧
      t.thresholdSonar = s.thresholdSonar ∧ t.thresholdIR = s.thresholdIR) ∨
    ((s.phase = .init ∨ (s.phase = .wseq ∧ s.curOff.bits = s.curCount.bits)) ∧ t.phase = .ready ∧
      ∃ w0 w1 w2 w3, configWords s = some (w0, w1, w2, w3) ∧ t.switchThreshold = .held w0 ∧
        t.sonarDivider = .held w1 ∧ t.thresholdSonar = .held w2 ∧ t.thresholdIR = .held w3)

/-- R29, R111, R160, R161: after a step without rst the poll flag is set if the step completed a POLL_SONAR, and
otherwise is the flag before, cleared by poll_clear; so a set in the same step as a clear wins. -/
def Obligations.PollFlagRule : Prop :=
  ∀ s t : State, (nextInputs s).rst = false → step s = .next t → t.faulted = none →
    t.pollArmed =
      (decide (s.phase = .ready ∧ s.inProgress = false ∧ stepByte s = some s.cfg.opcPollSonar) ||
        (s.pollArmed && !(nextInputs s).pollClear))

/-- R5: no step changes the configuration. -/
def Obligations.ConfigurationIsFixed : Prop := ∀ s t : State, step s = .next t → t.cfg = s.cfg

/-- R172, R41: without an acknowledgement and without rst the outputs st_wreq, st_waddr and st_wdata stay as they are.
(st_wreq by the reading of log 11.) -/
def Obligations.RequestHeldUntilAcknowledged : Prop :=
  ∀ s t : State, FrameInv s → stWreq s = true → (nextInputs s).rst = false → (nextInputs s).stAck = false →
    step s = .next t →
    stWreq t = true ∧ stWaddr t = stWaddr s ∧ stWdata t = stWdata s ∧ ∃ d, stWdata s = some d

/-- R125: what `feed` returns for the byte that completes a command's frame. -/
def Obligations.FeedOutcomeOfCommand : Prop :=
  ∀ (i : Instr) (s t : State), s.rxTake = true → (∀ e ∈ s.events, e.dispatchOutcome = none) →
    exec i s = .next t → t.faulted = s.faulted →
    match i with
    | .reset => feedOutcome t = some .resetRequested
    | .eepromWrite a n _ => feedOutcome t = some (.writeStarted a n)
    | .eepromRead a => s.faulted = none → feedOutcome t = some (.readResponse a (s.mem.read a.toNat))
    | .pollSonar => feedOutcome t = some .pollArmed
    | .unrecognized _ => feedOutcome t = some (.rejected .unrecognizedOpcode)

/-- The model's own (log 5): a state whose script is empty steps under the free draws, as if they stood in it. -/
def Obligations.EmptyScriptDrawsFreely : Prop :=
  ∀ s t : State, s.script = [] → step { s with script := [Config.freeInputs s.draws] } = .next t →
    step s = .next { t with draws := s.draws + 1 }

/-- The spec's own inference of R233: resynchronisation: 33 bytes of one unrecognised value of at least 30, offered to an SCD in READY with any frame
state, leave it idle once all are taken (every write acknowledged, the store of full size). -/
def Obligations.ThirtyThreeBytesResynchronise : Prop :=
  ∀ (s : State) (b : Byte) (is rest : List Inputs), Live s → FrameInv s → LatchInv s → FullStore s →
    s.phase = .ready → decodeClass s.cfg b = .unrecognized → 30 ≤ b.toNat → s.rx = List.replicate 33 b →
    s.script = is ++ rest → is.length = 63 → (∀ i ∈ is, Offers i ∧ i.stAck = true) →
    ∃ t : State, Sys2Proof.core.run is.length s = .next t ∧ t.rx = [] ∧ ReadyIdle t ∧ t.faulted = none

/-- R41, R172, R220: a step presents the write of the outputs st_waddr and st_wdata exactly when it records WRITE_ACK or
WRITE_WAIT of them; so a reset step and a step that faults present none. (presentsWrite is the model's reading of the
three rules, log 11 and log 18.) -/
def Obligations.PresentedWriteIsRecorded : Prop :=
  ∀ (s t : State) (a : Word) (d : Byte), FrameInv s → step s = .next t →
    ((.writeAck a d ∈ t.events ∨ .writeWait a d ∈ t.events) ↔
      presentsWrite (nextInputs s) s = true ∧ stWaddr s = some a ∧ stWdata s = some d)
end

