-- ==== Sys2Proof/Laws/Decode.lean ====
section
/-! SUPPORT. What a byte's class says of the byte (spec/30_encoding.md R92, spec/00_scope.md R6). -/
namespace Sys2Proof

/-- R6: the four opcode values are pairwise distinct. -/
theorem wf_distinct {c : Config} (h : c.wellFormed = true) :
    c.opcReset ≠ c.opcEepromWrite ∧ c.opcReset ≠ c.opcEepromRead ∧ c.opcReset ≠ c.opcPollSonar ∧
      c.opcEepromWrite ≠ c.opcEepromRead ∧ c.opcEepromWrite ≠ c.opcPollSonar ∧ c.opcEepromRead ≠ c.opcPollSonar := by
  simp only [Config.wellFormed, Bool.and_eq_true, bne_iff_ne] at h
  tauto

theorem wf_storeSize {c : Config} (h : c.wellFormed = true) : 1 ≤ c.storeSize ∧ c.storeSize ≤ 65536 := by
  simp only [Config.wellFormed, Bool.and_eq_true, decide_eq_true_eq] at h
  exact ⟨h.1.2, h.2⟩

theorem decodeClass_reset_iff {c : Config} {b : Byte} : decodeClass c b = .reset ↔ b = c.opcReset := by
  unfold decodeClass
  split_ifs <;> simp_all

theorem decodeClass_eepromWrite_iff {c : Config} {b : Byte} (hc : c.wellFormed = true) :
    decodeClass c b = .eepromWrite ↔ b = c.opcEepromWrite := by
  have hd := wf_distinct hc
  unfold decodeClass
  split_ifs <;> aesop

theorem decodeClass_eepromRead_iff {c : Config} {b : Byte} (hc : c.wellFormed = true) :
    decodeClass c b = .eepromRead ↔ b = c.opcEepromRead := by
  have hd := wf_distinct hc
  unfold decodeClass
  split_ifs <;> aesop

theorem decodeClass_pollSonar_iff {c : Config} {b : Byte} (hc : c.wellFormed = true) :
    decodeClass c b = .pollSonar ↔ b = c.opcPollSonar := by
  have hd := wf_distinct hc
  unfold decodeClass
  split_ifs <;> aesop

theorem decodeClass_unrecognized_iff {c : Config} {b : Byte} :
    decodeClass c b = .unrecognized ↔
      b ≠ c.opcReset ∧ b ≠ c.opcEepromWrite ∧ b ≠ c.opcEepromRead ∧ b ≠ c.opcPollSonar := by
  unfold decodeClass
  split_ifs <;> simp_all

end Sys2Proof
end

