-- ==== Sys2Proof/Laws/Memory.lean ====
section
/-! SUPPORT. The store's laws: the canonical form is kept, a read gives the latest write, a write leaves the rest. -/
namespace Sys2Proof.Machine

@[simp] theorem memory_wf_nil : Memory.wf [] = true := rfl

theorem memory_wf_cons {a : Nat} {v : Byte} {t : Memory} :
    Memory.wf ((a, v) :: t) = true ↔ v ≠ erasedByte ∧ (∀ cell ∈ t, a < cell.1) ∧ Memory.wf t = true := by
  simp [Memory.wf, and_assoc]

/-- Below every listed address a byte reads as nothing listed. -/
theorem read_of_lt {m : Memory} {a : Nat} (h : ∀ cell ∈ m, a < cell.1) : m.read a = erasedByte := by
  induction m with
  | nil => rfl
  | cons c t ih =>
    have hc := h c (by simp)
    have := ih (fun cell hm => h cell (by simp [hm]))
    simp only [Memory.read]
    rw [if_neg (by omega), this]

/-- A write adds no address but its own. -/
theorem mem_write {m : Memory} {a : Nat} {v : Byte} {cell : Host.Cell} (h : cell ∈ m.write a v) :
    cell.1 = a ∨ cell ∈ m := by
  induction m with
  | nil =>
    simp only [Memory.write] at h
    split at h <;> simp_all
  | cons c t ih =>
    simp only [Memory.write] at h
    split at h
    · split at h <;> simp_all
      rcases h with h | h | h <;> simp [h]
    · split at h
      · split at h <;> simp_all
        rcases h with h | h <;> simp [h]
      · simp only [List.mem_cons] at h ⊢
        rcases h with h | h
        · exact .inr (.inl h)
        · rcases ih h with h | h <;> simp [h]

/-- A write keeps the canonical form. -/
theorem write_wf {m : Memory} (a : Nat) (v : Byte) (h : Memory.wf m = true) : Memory.wf (m.write a v) = true := by
  induction m with
  | nil =>
    simp only [Memory.write]
    split
    · rfl
    · simp_all [memory_wf_cons]
  | cons c t ih =>
    obtain ⟨b, w⟩ := c
    obtain ⟨hw, hlt, ht⟩ := memory_wf_cons.1 h
    simp only [Memory.write]
    split
    · rename_i hab
      split
      · exact h
      · refine memory_wf_cons.2 ⟨by assumption, ?_, h⟩
        intro cell hm
        rcases List.mem_cons.1 hm with rfl | hm
        · exact hab
        · exact hab.trans (hlt cell hm)
    · split
      · subst_vars
        split
        · exact ht
        · exact memory_wf_cons.2 ⟨by assumption, hlt, ht⟩
      · refine memory_wf_cons.2 ⟨hw, ?_, ih ht⟩
        intro cell hm
        rcases mem_write hm with h | h
        · omega
        · exact hlt cell h

/-- A read of the written address gives the byte written (spec/20_memory.md R62). -/
theorem read_write_same {m : Memory} (a : Nat) (v : Byte) (h : Memory.wf m = true) : (m.write a v).read a = v := by
  induction m with
  | nil =>
    simp only [Memory.write]
    split <;> simp_all [Memory.read]
  | cons c t ih =>
    obtain ⟨b, w⟩ := c
    obtain ⟨hw, hlt, ht⟩ := memory_wf_cons.1 h
    simp only [Memory.write]
    split
    · rename_i hab
      split
      · subst_vars
        refine read_of_lt fun cell hm => ?_
        rcases List.mem_cons.1 hm with rfl | hm
        · exact hab
        · exact hab.trans (hlt cell hm)
      · simp [Memory.read]
    · split
      · subst_vars
        split
        · subst_vars
          exact read_of_lt hlt
        · simp [Memory.read]
      · rename_i hne
        simp only [Memory.read, if_neg hne]
        exact ih ht

/-- A write leaves every other address alone. -/
theorem read_write_other {m : Memory} {a x : Nat} (v : Byte) (hx : x ≠ a) : (m.write a v).read x = m.read x := by
  induction m with
  | nil =>
    simp only [Memory.write]
    split
    · rfl
    · simp [Memory.read, hx]
  | cons c t ih =>
    obtain ⟨b, w⟩ := c
    simp only [Memory.write]
    split
    · split
      · rfl
      · simp [Memory.read, hx]
    · split
      · subst_vars
        split <;> simp [Memory.read, hx]
      · simp only [Memory.read, ih]

/-- Every listed address of a write is below a bound the old ones and the new one are below. -/
theorem write_bound {m : Memory} {a n : Nat} {v : Byte} (ha : a < n) (h : ∀ cell ∈ m, cell.1 < n) :
    ∀ cell ∈ m.write a v, cell.1 < n := by
  intro cell hm
  rcases mem_write hm with h' | h'
  · omega
  · exact h cell h'

end Sys2Proof.Machine
end

