-- ==== Sys2Proof/Laws/State.lean ====
section
/-! SUPPORT. Each operation on State, field by field: the field it writes, or that it leaves the field alone. -/
namespace Sys2Proof.Machine

/-! ### Registers that may hold no value -/
@[simp] theorem held_hasValue {α : Type} (v : α) : (Reg.held v).hasValue = true := rfl
@[simp] theorem held_bits {α : Type} (v : α) : (Reg.held v).bits = v := rfl
@[simp] theorem noValue_hasValue {α : Type} (v : α) : (Reg.noValue v).hasValue = false := rfl
@[simp] theorem noValue_bits {α : Type} (v : α) : (Reg.noValue v).bits = v := rfl
@[simp] theorem held_value {α : Type} (v : α) : (Reg.held v).value? = some v := rfl
@[simp] theorem noValue_value {α : Type} (v : α) : (Reg.noValue v).value? = none := rfl

variable (s : State)

/-! ### emit -/
@[simp] theorem emit_cfg (e : Event) : (emit s e).cfg = s.cfg := rfl
@[simp] theorem emit_phase (e : Event) : (emit s e).phase = s.phase := rfl
@[simp] theorem emit_inProgress (e : Event) : (emit s e).inProgress = s.inProgress := rfl
@[simp] theorem emit_currentOpcode (e : Event) : (emit s e).currentOpcode = s.currentOpcode := rfl
@[simp] theorem emit_parameterCount (e : Event) : (emit s e).parameterCount = s.parameterCount := rfl
@[simp] theorem emit_buf (e : Event) : (emit s e).buf = s.buf := rfl
@[simp] theorem emit_curValid (e : Event) : (emit s e).curValid = s.curValid := rfl
@[simp] theorem emit_curCount (e : Event) : (emit s e).curCount = s.curCount := rfl
@[simp] theorem emit_curAddr (e : Event) : (emit s e).curAddr = s.curAddr := rfl
@[simp] theorem emit_curOff (e : Event) : (emit s e).curOff = s.curOff := rfl
@[simp] theorem emit_pollArmed (e : Event) : (emit s e).pollArmed = s.pollArmed := rfl
@[simp] theorem emit_switchThreshold (e : Event) : (emit s e).switchThreshold = s.switchThreshold := rfl
@[simp] theorem emit_sonarDivider (e : Event) : (emit s e).sonarDivider = s.sonarDivider := rfl
@[simp] theorem emit_thresholdSonar (e : Event) : (emit s e).thresholdSonar = s.thresholdSonar := rfl
@[simp] theorem emit_thresholdIR (e : Event) : (emit s e).thresholdIR = s.thresholdIR := rfl
@[simp] theorem emit_faulted (e : Event) : (emit s e).faulted = s.faulted := rfl
@[simp] theorem emit_mem (e : Event) : (emit s e).mem = s.mem := rfl
@[simp] theorem emit_tx (e : Event) : (emit s e).tx = s.tx := rfl
@[simp] theorem emit_rx (e : Event) : (emit s e).rx = s.rx := rfl
@[simp] theorem emit_rxTake (e : Event) : (emit s e).rxTake = s.rxTake := rfl
@[simp] theorem emit_events (e : Event) : (emit s e).events = s.events ++ [e] := rfl
@[simp] theorem emit_script (e : Event) : (emit s e).script = s.script := rfl
@[simp] theorem emit_draws (e : Event) : (emit s e).draws = s.draws := rfl

/-! ### txAppend -/
@[simp] theorem txAppend_cfg (bs : List Byte) : (txAppend s bs).cfg = s.cfg := rfl
@[simp] theorem txAppend_phase (bs : List Byte) : (txAppend s bs).phase = s.phase := rfl
@[simp] theorem txAppend_inProgress (bs : List Byte) : (txAppend s bs).inProgress = s.inProgress := rfl
@[simp] theorem txAppend_currentOpcode (bs : List Byte) : (txAppend s bs).currentOpcode = s.currentOpcode := rfl
@[simp] theorem txAppend_parameterCount (bs : List Byte) : (txAppend s bs).parameterCount = s.parameterCount := rfl
@[simp] theorem txAppend_buf (bs : List Byte) : (txAppend s bs).buf = s.buf := rfl
@[simp] theorem txAppend_curValid (bs : List Byte) : (txAppend s bs).curValid = s.curValid := rfl
@[simp] theorem txAppend_curCount (bs : List Byte) : (txAppend s bs).curCount = s.curCount := rfl
@[simp] theorem txAppend_curAddr (bs : List Byte) : (txAppend s bs).curAddr = s.curAddr := rfl
@[simp] theorem txAppend_curOff (bs : List Byte) : (txAppend s bs).curOff = s.curOff := rfl
@[simp] theorem txAppend_pollArmed (bs : List Byte) : (txAppend s bs).pollArmed = s.pollArmed := rfl
@[simp] theorem txAppend_switchThreshold (bs : List Byte) : (txAppend s bs).switchThreshold = s.switchThreshold := rfl
@[simp] theorem txAppend_sonarDivider (bs : List Byte) : (txAppend s bs).sonarDivider = s.sonarDivider := rfl
@[simp] theorem txAppend_thresholdSonar (bs : List Byte) : (txAppend s bs).thresholdSonar = s.thresholdSonar := rfl
@[simp] theorem txAppend_thresholdIR (bs : List Byte) : (txAppend s bs).thresholdIR = s.thresholdIR := rfl
@[simp] theorem txAppend_faulted (bs : List Byte) : (txAppend s bs).faulted = s.faulted := rfl
@[simp] theorem txAppend_mem (bs : List Byte) : (txAppend s bs).mem = s.mem := rfl
@[simp] theorem txAppend_tx (bs : List Byte) : (txAppend s bs).tx = s.tx ++ bs := rfl
@[simp] theorem txAppend_rx (bs : List Byte) : (txAppend s bs).rx = s.rx := rfl
@[simp] theorem txAppend_rxTake (bs : List Byte) : (txAppend s bs).rxTake = s.rxTake := rfl
@[simp] theorem txAppend_events (bs : List Byte) : (txAppend s bs).events = s.events := rfl
@[simp] theorem txAppend_script (bs : List Byte) : (txAppend s bs).script = s.script := rfl
@[simp] theorem txAppend_draws (bs : List Byte) : (txAppend s bs).draws = s.draws := rfl

/-! ### raiseFault -/
@[simp] theorem raiseFault_cfg (k : Fault) : (raiseFault s k).cfg = s.cfg := rfl
@[simp] theorem raiseFault_phase (k : Fault) : (raiseFault s k).phase = s.phase := rfl
@[simp] theorem raiseFault_inProgress (k : Fault) : (raiseFault s k).inProgress = s.inProgress := rfl
@[simp] theorem raiseFault_currentOpcode (k : Fault) : (raiseFault s k).currentOpcode = s.currentOpcode := rfl
@[simp] theorem raiseFault_parameterCount (k : Fault) : (raiseFault s k).parameterCount = s.parameterCount := rfl
@[simp] theorem raiseFault_buf (k : Fault) : (raiseFault s k).buf = s.buf := rfl
@[simp] theorem raiseFault_curValid (k : Fault) : (raiseFault s k).curValid = s.curValid := rfl
@[simp] theorem raiseFault_curCount (k : Fault) : (raiseFault s k).curCount = s.curCount := rfl
@[simp] theorem raiseFault_curAddr (k : Fault) : (raiseFault s k).curAddr = s.curAddr := rfl
@[simp] theorem raiseFault_curOff (k : Fault) : (raiseFault s k).curOff = s.curOff := rfl
@[simp] theorem raiseFault_pollArmed (k : Fault) : (raiseFault s k).pollArmed = s.pollArmed := rfl
@[simp] theorem raiseFault_switchThreshold (k : Fault) : (raiseFault s k).switchThreshold = s.switchThreshold := rfl
@[simp] theorem raiseFault_sonarDivider (k : Fault) : (raiseFault s k).sonarDivider = s.sonarDivider := rfl
@[simp] theorem raiseFault_thresholdSonar (k : Fault) : (raiseFault s k).thresholdSonar = s.thresholdSonar := rfl
@[simp] theorem raiseFault_thresholdIR (k : Fault) : (raiseFault s k).thresholdIR = s.thresholdIR := rfl
@[simp] theorem raiseFault_faulted (k : Fault) : (raiseFault s k).faulted = some k := rfl
@[simp] theorem raiseFault_mem (k : Fault) : (raiseFault s k).mem = s.mem := rfl
@[simp] theorem raiseFault_tx (k : Fault) : (raiseFault s k).tx = s.tx := rfl
@[simp] theorem raiseFault_rx (k : Fault) : (raiseFault s k).rx = s.rx := rfl
@[simp] theorem raiseFault_rxTake (k : Fault) : (raiseFault s k).rxTake = s.rxTake := rfl
@[simp] theorem raiseFault_events (k : Fault) : (raiseFault s k).events = s.events := rfl
@[simp] theorem raiseFault_script (k : Fault) : (raiseFault s k).script = s.script := rfl
@[simp] theorem raiseFault_draws (k : Fault) : (raiseFault s k).draws = s.draws := rfl

/-! ### setCache -/
@[simp] theorem setCache_cfg (w0 w1 w2 w3 : Word) : (setCache s w0 w1 w2 w3).cfg = s.cfg := rfl
@[simp] theorem setCache_phase (w0 w1 w2 w3 : Word) : (setCache s w0 w1 w2 w3).phase = s.phase := rfl
@[simp] theorem setCache_inProgress (w0 w1 w2 w3 : Word) : (setCache s w0 w1 w2 w3).inProgress = s.inProgress := rfl
@[simp] theorem setCache_currentOpcode (w0 w1 w2 w3 : Word) : (setCache s w0 w1 w2 w3).currentOpcode = s.currentOpcode := rfl
@[simp] theorem setCache_parameterCount (w0 w1 w2 w3 : Word) : (setCache s w0 w1 w2 w3).parameterCount = s.parameterCount := rfl
@[simp] theorem setCache_buf (w0 w1 w2 w3 : Word) : (setCache s w0 w1 w2 w3).buf = s.buf := rfl
@[simp] theorem setCache_curValid (w0 w1 w2 w3 : Word) : (setCache s w0 w1 w2 w3).curValid = s.curValid := rfl
@[simp] theorem setCache_curCount (w0 w1 w2 w3 : Word) : (setCache s w0 w1 w2 w3).curCount = s.curCount := rfl
@[simp] theorem setCache_curAddr (w0 w1 w2 w3 : Word) : (setCache s w0 w1 w2 w3).curAddr = s.curAddr := rfl
@[simp] theorem setCache_curOff (w0 w1 w2 w3 : Word) : (setCache s w0 w1 w2 w3).curOff = s.curOff := rfl
@[simp] theorem setCache_pollArmed (w0 w1 w2 w3 : Word) : (setCache s w0 w1 w2 w3).pollArmed = s.pollArmed := rfl
@[simp] theorem setCache_switchThreshold (w0 w1 w2 w3 : Word) : (setCache s w0 w1 w2 w3).switchThreshold = .held w0 := rfl
@[simp] theorem setCache_sonarDivider (w0 w1 w2 w3 : Word) : (setCache s w0 w1 w2 w3).sonarDivider = .held w1 := rfl
@[simp] theorem setCache_thresholdSonar (w0 w1 w2 w3 : Word) : (setCache s w0 w1 w2 w3).thresholdSonar = .held w2 := rfl
@[simp] theorem setCache_thresholdIR (w0 w1 w2 w3 : Word) : (setCache s w0 w1 w2 w3).thresholdIR = .held w3 := rfl
@[simp] theorem setCache_faulted (w0 w1 w2 w3 : Word) : (setCache s w0 w1 w2 w3).faulted = s.faulted := rfl
@[simp] theorem setCache_mem (w0 w1 w2 w3 : Word) : (setCache s w0 w1 w2 w3).mem = s.mem := rfl
@[simp] theorem setCache_tx (w0 w1 w2 w3 : Word) : (setCache s w0 w1 w2 w3).tx = s.tx := rfl
@[simp] theorem setCache_rx (w0 w1 w2 w3 : Word) : (setCache s w0 w1 w2 w3).rx = s.rx := rfl
@[simp] theorem setCache_rxTake (w0 w1 w2 w3 : Word) : (setCache s w0 w1 w2 w3).rxTake = s.rxTake := rfl
@[simp] theorem setCache_events (w0 w1 w2 w3 : Word) : (setCache s w0 w1 w2 w3).events = s.events := rfl
@[simp] theorem setCache_script (w0 w1 w2 w3 : Word) : (setCache s w0 w1 w2 w3).script = s.script := rfl
@[simp] theorem setCache_draws (w0 w1 w2 w3 : Word) : (setCache s w0 w1 w2 w3).draws = s.draws := rfl

/-! ### finish -/
@[simp] theorem finish_cfg : (finish s).cfg = s.cfg := rfl
@[simp] theorem finish_phase : (finish s).phase = s.phase := rfl
@[simp] theorem finish_inProgress : (finish s).inProgress = false := rfl
@[simp] theorem finish_currentOpcode : (finish s).currentOpcode = s.currentOpcode := rfl
@[simp] theorem finish_parameterCount : (finish s).parameterCount = 0 := rfl
@[simp] theorem finish_buf : (finish s).buf = s.buf := rfl
@[simp] theorem finish_curValid : (finish s).curValid = false := rfl
@[simp] theorem finish_curCount : (finish s).curCount = s.curCount := rfl
@[simp] theorem finish_curAddr : (finish s).curAddr = s.curAddr := rfl
@[simp] theorem finish_curOff : (finish s).curOff = s.curOff := rfl
@[simp] theorem finish_pollArmed : (finish s).pollArmed = s.pollArmed := rfl
@[simp] theorem finish_switchThreshold : (finish s).switchThreshold = s.switchThreshold := rfl
@[simp] theorem finish_sonarDivider : (finish s).sonarDivider = s.sonarDivider := rfl
@[simp] theorem finish_thresholdSonar : (finish s).thresholdSonar = s.thresholdSonar := rfl
@[simp] theorem finish_thresholdIR : (finish s).thresholdIR = s.thresholdIR := rfl
@[simp] theorem finish_faulted : (finish s).faulted = s.faulted := rfl
@[simp] theorem finish_mem : (finish s).mem = s.mem := rfl
@[simp] theorem finish_tx : (finish s).tx = s.tx := rfl
@[simp] theorem finish_rx : (finish s).rx = s.rx := rfl
@[simp] theorem finish_rxTake : (finish s).rxTake = s.rxTake := rfl
@[simp] theorem finish_events : (finish s).events = s.events := rfl
@[simp] theorem finish_script : (finish s).script = s.script := rfl
@[simp] theorem finish_draws : (finish s).draws = s.draws := rfl

/-! ### reject -/
@[simp] theorem reject_cfg (r : RejectReason) : (reject s r).cfg = s.cfg := rfl
@[simp] theorem reject_phase (r : RejectReason) : (reject s r).phase = s.phase := rfl
@[simp] theorem reject_inProgress (r : RejectReason) : (reject s r).inProgress = false := rfl
@[simp] theorem reject_currentOpcode (r : RejectReason) : (reject s r).currentOpcode = s.currentOpcode := rfl
@[simp] theorem reject_parameterCount (r : RejectReason) : (reject s r).parameterCount = 0 := rfl
@[simp] theorem reject_buf (r : RejectReason) : (reject s r).buf = s.buf := rfl
@[simp] theorem reject_curValid (r : RejectReason) : (reject s r).curValid = false := rfl
@[simp] theorem reject_curCount (r : RejectReason) : (reject s r).curCount = s.curCount := rfl
@[simp] theorem reject_curAddr (r : RejectReason) : (reject s r).curAddr = s.curAddr := rfl
@[simp] theorem reject_curOff (r : RejectReason) : (reject s r).curOff = s.curOff := rfl
@[simp] theorem reject_pollArmed (r : RejectReason) : (reject s r).pollArmed = s.pollArmed := rfl
@[simp] theorem reject_switchThreshold (r : RejectReason) : (reject s r).switchThreshold = s.switchThreshold := rfl
@[simp] theorem reject_sonarDivider (r : RejectReason) : (reject s r).sonarDivider = s.sonarDivider := rfl
@[simp] theorem reject_thresholdSonar (r : RejectReason) : (reject s r).thresholdSonar = s.thresholdSonar := rfl
@[simp] theorem reject_thresholdIR (r : RejectReason) : (reject s r).thresholdIR = s.thresholdIR := rfl
@[simp] theorem reject_faulted (r : RejectReason) : (reject s r).faulted = s.faulted := rfl
@[simp] theorem reject_mem (r : RejectReason) : (reject s r).mem = s.mem := rfl
@[simp] theorem reject_tx (r : RejectReason) : (reject s r).tx = s.tx := rfl
@[simp] theorem reject_rx (r : RejectReason) : (reject s r).rx = s.rx := rfl
@[simp] theorem reject_rxTake (r : RejectReason) : (reject s r).rxTake = s.rxTake := rfl
@[simp] theorem reject_events (r : RejectReason) : (reject s r).events = s.events ++ [.reject r] := rfl
@[simp] theorem reject_script (r : RejectReason) : (reject s r).script = s.script := rfl
@[simp] theorem reject_draws (r : RejectReason) : (reject s r).draws = s.draws := rfl

/-! ### arrive -/
@[simp] theorem arrive_cfg (bs : List Byte) : (arrive s bs).cfg = s.cfg := rfl
@[simp] theorem arrive_phase (bs : List Byte) : (arrive s bs).phase = s.phase := rfl
@[simp] theorem arrive_inProgress (bs : List Byte) : (arrive s bs).inProgress = s.inProgress := rfl
@[simp] theorem arrive_currentOpcode (bs : List Byte) : (arrive s bs).currentOpcode = s.currentOpcode := rfl
@[simp] theorem arrive_parameterCount (bs : List Byte) : (arrive s bs).parameterCount = s.parameterCount := rfl
@[simp] theorem arrive_buf (bs : List Byte) : (arrive s bs).buf = s.buf := rfl
@[simp] theorem arrive_curValid (bs : List Byte) : (arrive s bs).curValid = s.curValid := rfl
@[simp] theorem arrive_curCount (bs : List Byte) : (arrive s bs).curCount = s.curCount := rfl
@[simp] theorem arrive_curAddr (bs : List Byte) : (arrive s bs).curAddr = s.curAddr := rfl
@[simp] theorem arrive_curOff (bs : List Byte) : (arrive s bs).curOff = s.curOff := rfl
@[simp] theorem arrive_pollArmed (bs : List Byte) : (arrive s bs).pollArmed = s.pollArmed := rfl
@[simp] theorem arrive_switchThreshold (bs : List Byte) : (arrive s bs).switchThreshold = s.switchThreshold := rfl
@[simp] theorem arrive_sonarDivider (bs : List Byte) : (arrive s bs).sonarDivider = s.sonarDivider := rfl
@[simp] theorem arrive_thresholdSonar (bs : List Byte) : (arrive s bs).thresholdSonar = s.thresholdSonar := rfl
@[simp] theorem arrive_thresholdIR (bs : List Byte) : (arrive s bs).thresholdIR = s.thresholdIR := rfl
@[simp] theorem arrive_faulted (bs : List Byte) : (arrive s bs).faulted = s.faulted := rfl
@[simp] theorem arrive_mem (bs : List Byte) : (arrive s bs).mem = s.mem := rfl
@[simp] theorem arrive_tx (bs : List Byte) : (arrive s bs).tx = s.tx := rfl
@[simp] theorem arrive_rx (bs : List Byte) : (arrive s bs).rx = s.rx ++ bs := rfl
@[simp] theorem arrive_rxTake (bs : List Byte) : (arrive s bs).rxTake = s.rxTake := rfl
@[simp] theorem arrive_events (bs : List Byte) : (arrive s bs).events = s.events := rfl
@[simp] theorem arrive_script (bs : List Byte) : (arrive s bs).script = s.script := rfl
@[simp] theorem arrive_draws (bs : List Byte) : (arrive s bs).draws = s.draws := rfl

/-! ### takeHead -/
@[simp] theorem takeHead_cfg : (takeHead s).cfg = s.cfg := rfl
@[simp] theorem takeHead_phase : (takeHead s).phase = s.phase := rfl
@[simp] theorem takeHead_inProgress : (takeHead s).inProgress = s.inProgress := rfl
@[simp] theorem takeHead_currentOpcode : (takeHead s).currentOpcode = s.currentOpcode := rfl
@[simp] theorem takeHead_parameterCount : (takeHead s).parameterCount = s.parameterCount := rfl
@[simp] theorem takeHead_buf : (takeHead s).buf = s.buf := rfl
@[simp] theorem takeHead_curValid : (takeHead s).curValid = s.curValid := rfl
@[simp] theorem takeHead_curCount : (takeHead s).curCount = s.curCount := rfl
@[simp] theorem takeHead_curAddr : (takeHead s).curAddr = s.curAddr := rfl
@[simp] theorem takeHead_curOff : (takeHead s).curOff = s.curOff := rfl
@[simp] theorem takeHead_pollArmed : (takeHead s).pollArmed = s.pollArmed := rfl
@[simp] theorem takeHead_switchThreshold : (takeHead s).switchThreshold = s.switchThreshold := rfl
@[simp] theorem takeHead_sonarDivider : (takeHead s).sonarDivider = s.sonarDivider := rfl
@[simp] theorem takeHead_thresholdSonar : (takeHead s).thresholdSonar = s.thresholdSonar := rfl
@[simp] theorem takeHead_thresholdIR : (takeHead s).thresholdIR = s.thresholdIR := rfl
@[simp] theorem takeHead_faulted : (takeHead s).faulted = s.faulted := rfl
@[simp] theorem takeHead_mem : (takeHead s).mem = s.mem := rfl
@[simp] theorem takeHead_tx : (takeHead s).tx = s.tx := rfl
@[simp] theorem takeHead_rx : (takeHead s).rx = s.rx.tail := rfl
@[simp] theorem takeHead_rxTake : (takeHead s).rxTake = true := rfl
@[simp] theorem takeHead_events : (takeHead s).events = s.events := rfl
@[simp] theorem takeHead_script : (takeHead s).script = s.script := rfl
@[simp] theorem takeHead_draws : (takeHead s).draws = s.draws := rfl

/-! ### fresh -/
@[simp] theorem fresh_cfg : (fresh s).cfg = s.cfg := rfl
@[simp] theorem fresh_phase : (fresh s).phase = s.phase := rfl
@[simp] theorem fresh_inProgress : (fresh s).inProgress = s.inProgress := rfl
@[simp] theorem fresh_currentOpcode : (fresh s).currentOpcode = s.currentOpcode := rfl
@[simp] theorem fresh_parameterCount : (fresh s).parameterCount = s.parameterCount := rfl
@[simp] theorem fresh_buf : (fresh s).buf = s.buf := rfl
@[simp] theorem fresh_curValid : (fresh s).curValid = s.curValid := rfl
@[simp] theorem fresh_curCount : (fresh s).curCount = s.curCount := rfl
@[simp] theorem fresh_curAddr : (fresh s).curAddr = s.curAddr := rfl
@[simp] theorem fresh_curOff : (fresh s).curOff = s.curOff := rfl
@[simp] theorem fresh_pollArmed : (fresh s).pollArmed = s.pollArmed := rfl
@[simp] theorem fresh_switchThreshold : (fresh s).switchThreshold = s.switchThreshold := rfl
@[simp] theorem fresh_sonarDivider : (fresh s).sonarDivider = s.sonarDivider := rfl
@[simp] theorem fresh_thresholdSonar : (fresh s).thresholdSonar = s.thresholdSonar := rfl
@[simp] theorem fresh_thresholdIR : (fresh s).thresholdIR = s.thresholdIR := rfl
@[simp] theorem fresh_faulted : (fresh s).faulted = s.faulted := rfl
@[simp] theorem fresh_mem : (fresh s).mem = s.mem := rfl
@[simp] theorem fresh_tx : (fresh s).tx = s.tx := rfl
@[simp] theorem fresh_rx : (fresh s).rx = s.rx := rfl
@[simp] theorem fresh_rxTake : (fresh s).rxTake = false := rfl
@[simp] theorem fresh_events : (fresh s).events = [] := rfl
@[simp] theorem fresh_script : (fresh s).script = s.script.tail := rfl
@[simp] theorem fresh_draws : (fresh s).draws = if s.script.isEmpty then s.draws + 1 else s.draws := rfl

/-! ### armPoll -/
@[simp] theorem armPoll_cfg : (armPoll s).cfg = s.cfg := rfl
@[simp] theorem armPoll_phase : (armPoll s).phase = s.phase := rfl
@[simp] theorem armPoll_inProgress : (armPoll s).inProgress = s.inProgress := rfl
@[simp] theorem armPoll_currentOpcode : (armPoll s).currentOpcode = s.currentOpcode := rfl
@[simp] theorem armPoll_parameterCount : (armPoll s).parameterCount = s.parameterCount := rfl
@[simp] theorem armPoll_buf : (armPoll s).buf = s.buf := rfl
@[simp] theorem armPoll_curValid : (armPoll s).curValid = s.curValid := rfl
@[simp] theorem armPoll_curCount : (armPoll s).curCount = s.curCount := rfl
@[simp] theorem armPoll_curAddr : (armPoll s).curAddr = s.curAddr := rfl
@[simp] theorem armPoll_curOff : (armPoll s).curOff = s.curOff := rfl
@[simp] theorem armPoll_pollArmed : (armPoll s).pollArmed = true := rfl
@[simp] theorem armPoll_switchThreshold : (armPoll s).switchThreshold = s.switchThreshold := rfl
@[simp] theorem armPoll_sonarDivider : (armPoll s).sonarDivider = s.sonarDivider := rfl
@[simp] theorem armPoll_thresholdSonar : (armPoll s).thresholdSonar = s.thresholdSonar := rfl
@[simp] theorem armPoll_thresholdIR : (armPoll s).thresholdIR = s.thresholdIR := rfl
@[simp] theorem armPoll_faulted : (armPoll s).faulted = s.faulted := rfl
@[simp] theorem armPoll_mem : (armPoll s).mem = s.mem := rfl
@[simp] theorem armPoll_tx : (armPoll s).tx = s.tx := rfl
@[simp] theorem armPoll_rx : (armPoll s).rx = s.rx := rfl
@[simp] theorem armPoll_rxTake : (armPoll s).rxTake = s.rxTake := rfl
@[simp] theorem armPoll_events : (armPoll s).events = s.events := rfl
@[simp] theorem armPoll_script : (armPoll s).script = s.script := rfl
@[simp] theorem armPoll_draws : (armPoll s).draws = s.draws := rfl

/-! ### opcodeByte -/
@[simp] theorem opcodeByte_cfg (b : Byte) : (opcodeByte b s).cfg = s.cfg := rfl
@[simp] theorem opcodeByte_phase (b : Byte) : (opcodeByte b s).phase = s.phase := rfl
@[simp] theorem opcodeByte_inProgress (b : Byte) : (opcodeByte b s).inProgress = true := rfl
@[simp] theorem opcodeByte_currentOpcode (b : Byte) : (opcodeByte b s).currentOpcode = .held b := rfl
@[simp] theorem opcodeByte_parameterCount (b : Byte) : (opcodeByte b s).parameterCount = 0 := rfl
@[simp] theorem opcodeByte_buf (b : Byte) : (opcodeByte b s).buf = s.buf := rfl
@[simp] theorem opcodeByte_curValid (b : Byte) : (opcodeByte b s).curValid = s.curValid := rfl
@[simp] theorem opcodeByte_curCount (b : Byte) : (opcodeByte b s).curCount = s.curCount := rfl
@[simp] theorem opcodeByte_curAddr (b : Byte) : (opcodeByte b s).curAddr = s.curAddr := rfl
@[simp] theorem opcodeByte_curOff (b : Byte) : (opcodeByte b s).curOff = s.curOff := rfl
@[simp] theorem opcodeByte_pollArmed (b : Byte) : (opcodeByte b s).pollArmed = s.pollArmed := rfl
@[simp] theorem opcodeByte_switchThreshold (b : Byte) : (opcodeByte b s).switchThreshold = s.switchThreshold := rfl
@[simp] theorem opcodeByte_sonarDivider (b : Byte) : (opcodeByte b s).sonarDivider = s.sonarDivider := rfl
@[simp] theorem opcodeByte_thresholdSonar (b : Byte) : (opcodeByte b s).thresholdSonar = s.thresholdSonar := rfl
@[simp] theorem opcodeByte_thresholdIR (b : Byte) : (opcodeByte b s).thresholdIR = s.thresholdIR := rfl
@[simp] theorem opcodeByte_faulted (b : Byte) : (opcodeByte b s).faulted = s.faulted := rfl
@[simp] theorem opcodeByte_mem (b : Byte) : (opcodeByte b s).mem = s.mem := rfl
@[simp] theorem opcodeByte_tx (b : Byte) : (opcodeByte b s).tx = s.tx := rfl
@[simp] theorem opcodeByte_rx (b : Byte) : (opcodeByte b s).rx = s.rx := rfl
@[simp] theorem opcodeByte_rxTake (b : Byte) : (opcodeByte b s).rxTake = s.rxTake := rfl
@[simp] theorem opcodeByte_events (b : Byte) : (opcodeByte b s).events = s.events ++ [.frameStart b] := rfl
@[simp] theorem opcodeByte_script (b : Byte) : (opcodeByte b s).script = s.script := rfl
@[simp] theorem opcodeByte_draws (b : Byte) : (opcodeByte b s).draws = s.draws := rfl

/-! ### appendParam -/
@[simp] theorem appendParam_cfg (b : Byte) : (appendParam b s).cfg = s.cfg := rfl
@[simp] theorem appendParam_phase (b : Byte) : (appendParam b s).phase = s.phase := rfl
@[simp] theorem appendParam_inProgress (b : Byte) : (appendParam b s).inProgress = s.inProgress := rfl
@[simp] theorem appendParam_currentOpcode (b : Byte) : (appendParam b s).currentOpcode = s.currentOpcode := rfl
@[simp] theorem appendParam_parameterCount (b : Byte) : (appendParam b s).parameterCount = s.parameterCount + 1 := rfl
@[simp] theorem appendParam_buf (b : Byte) : (appendParam b s).buf = s.buf.setIfInBounds s.parameterCount (.held b) := rfl
@[simp] theorem appendParam_curValid (b : Byte) : (appendParam b s).curValid = s.curValid := rfl
@[simp] theorem appendParam_curCount (b : Byte) : (appendParam b s).curCount = s.curCount := rfl
@[simp] theorem appendParam_curAddr (b : Byte) : (appendParam b s).curAddr = s.curAddr := rfl
@[simp] theorem appendParam_curOff (b : Byte) : (appendParam b s).curOff = s.curOff := rfl
@[simp] theorem appendParam_pollArmed (b : Byte) : (appendParam b s).pollArmed = s.pollArmed := rfl
@[simp] theorem appendParam_switchThreshold (b : Byte) : (appendParam b s).switchThreshold = s.switchThreshold := rfl
@[simp] theorem appendParam_sonarDivider (b : Byte) : (appendParam b s).sonarDivider = s.sonarDivider := rfl
@[simp] theorem appendParam_thresholdSonar (b : Byte) : (appendParam b s).thresholdSonar = s.thresholdSonar := rfl
@[simp] theorem appendParam_thresholdIR (b : Byte) : (appendParam b s).thresholdIR = s.thresholdIR := rfl
@[simp] theorem appendParam_faulted (b : Byte) : (appendParam b s).faulted = s.faulted := rfl
@[simp] theorem appendParam_mem (b : Byte) : (appendParam b s).mem = s.mem := rfl
@[simp] theorem appendParam_tx (b : Byte) : (appendParam b s).tx = s.tx := rfl
@[simp] theorem appendParam_rx (b : Byte) : (appendParam b s).rx = s.rx := rfl
@[simp] theorem appendParam_rxTake (b : Byte) : (appendParam b s).rxTake = s.rxTake := rfl
@[simp] theorem appendParam_events (b : Byte) : (appendParam b s).events = s.events ++ [.param s.parameterCount b] := rfl
@[simp] theorem appendParam_script (b : Byte) : (appendParam b s).script = s.script := rfl
@[simp] theorem appendParam_draws (b : Byte) : (appendParam b s).draws = s.draws := rfl

/-! ### setCursor -/
@[simp] theorem setCursor_cfg (a : Word) (n : Byte) : (setCursor s a n).cfg = s.cfg := rfl
@[simp] theorem setCursor_phase (a : Word) (n : Byte) : (setCursor s a n).phase = s.phase := rfl
@[simp] theorem setCursor_inProgress (a : Word) (n : Byte) : (setCursor s a n).inProgress = s.inProgress := rfl
@[simp] theorem setCursor_currentOpcode (a : Word) (n : Byte) : (setCursor s a n).currentOpcode = s.currentOpcode := rfl
@[simp] theorem setCursor_parameterCount (a : Word) (n : Byte) : (setCursor s a n).parameterCount = s.parameterCount := rfl
@[simp] theorem setCursor_buf (a : Word) (n : Byte) : (setCursor s a n).buf = s.buf := rfl
@[simp] theorem setCursor_curValid (a : Word) (n : Byte) : (setCursor s a n).curValid = true := rfl
@[simp] theorem setCursor_curCount (a : Word) (n : Byte) : (setCursor s a n).curCount = .held n := rfl
@[simp] theorem setCursor_curAddr (a : Word) (n : Byte) : (setCursor s a n).curAddr = .held a := rfl
@[simp] theorem setCursor_curOff (a : Word) (n : Byte) : (setCursor s a n).curOff = .held 0 := rfl
@[simp] theorem setCursor_pollArmed (a : Word) (n : Byte) : (setCursor s a n).pollArmed = s.pollArmed := rfl
@[simp] theorem setCursor_switchThreshold (a : Word) (n : Byte) : (setCursor s a n).switchThreshold = s.switchThreshold := rfl
@[simp] theorem setCursor_sonarDivider (a : Word) (n : Byte) : (setCursor s a n).sonarDivider = s.sonarDivider := rfl
@[simp] theorem setCursor_thresholdSonar (a : Word) (n : Byte) : (setCursor s a n).thresholdSonar = s.thresholdSonar := rfl
@[simp] theorem setCursor_thresholdIR (a : Word) (n : Byte) : (setCursor s a n).thresholdIR = s.thresholdIR := rfl
@[simp] theorem setCursor_faulted (a : Word) (n : Byte) : (setCursor s a n).faulted = s.faulted := rfl
@[simp] theorem setCursor_mem (a : Word) (n : Byte) : (setCursor s a n).mem = s.mem := rfl
@[simp] theorem setCursor_tx (a : Word) (n : Byte) : (setCursor s a n).tx = s.tx := rfl
@[simp] theorem setCursor_rx (a : Word) (n : Byte) : (setCursor s a n).rx = s.rx := rfl
@[simp] theorem setCursor_rxTake (a : Word) (n : Byte) : (setCursor s a n).rxTake = s.rxTake := rfl
@[simp] theorem setCursor_events (a : Word) (n : Byte) : (setCursor s a n).events = s.events := rfl
@[simp] theorem setCursor_script (a : Word) (n : Byte) : (setCursor s a n).script = s.script := rfl
@[simp] theorem setCursor_draws (a : Word) (n : Byte) : (setCursor s a n).draws = s.draws := rfl

/-! ### latchWrite -/
@[simp] theorem latchWrite_cfg (a : Word) (n : Byte) (d : List Byte) : (latchWrite a n d s).cfg = s.cfg := rfl
@[simp] theorem latchWrite_phase (a : Word) (n : Byte) (d : List Byte) : (latchWrite a n d s).phase = s.phase := rfl
@[simp] theorem latchWrite_inProgress (a : Word) (n : Byte) (d : List Byte) : (latchWrite a n d s).inProgress = true := rfl
@[simp] theorem latchWrite_currentOpcode (a : Word) (n : Byte) (d : List Byte) : (latchWrite a n d s).currentOpcode = .held s.cfg.opcEepromWrite := rfl
@[simp] theorem latchWrite_parameterCount (a : Word) (n : Byte) (d : List Byte) : (latchWrite a n d s).parameterCount = n.toNat + 3 := rfl
@[simp] theorem latchWrite_buf (a : Word) (n : Byte) (d : List Byte) : (latchWrite a n d s).buf = storeFrom s.buf 0 (hiByte a :: loByte a :: n :: d) := rfl
@[simp] theorem latchWrite_curValid (a : Word) (n : Byte) (d : List Byte) : (latchWrite a n d s).curValid = true := rfl
@[simp] theorem latchWrite_curCount (a : Word) (n : Byte) (d : List Byte) : (latchWrite a n d s).curCount = .held n := rfl
@[simp] theorem latchWrite_curAddr (a : Word) (n : Byte) (d : List Byte) : (latchWrite a n d s).curAddr = .held a := rfl
@[simp] theorem latchWrite_curOff (a : Word) (n : Byte) (d : List Byte) : (latchWrite a n d s).curOff = .held 0 := rfl
@[simp] theorem latchWrite_pollArmed (a : Word) (n : Byte) (d : List Byte) : (latchWrite a n d s).pollArmed = s.pollArmed := rfl
@[simp] theorem latchWrite_switchThreshold (a : Word) (n : Byte) (d : List Byte) : (latchWrite a n d s).switchThreshold = s.switchThreshold := rfl
@[simp] theorem latchWrite_sonarDivider (a : Word) (n : Byte) (d : List Byte) : (latchWrite a n d s).sonarDivider = s.sonarDivider := rfl
@[simp] theorem latchWrite_thresholdSonar (a : Word) (n : Byte) (d : List Byte) : (latchWrite a n d s).thresholdSonar = s.thresholdSonar := rfl
@[simp] theorem latchWrite_thresholdIR (a : Word) (n : Byte) (d : List Byte) : (latchWrite a n d s).thresholdIR = s.thresholdIR := rfl
@[simp] theorem latchWrite_faulted (a : Word) (n : Byte) (d : List Byte) : (latchWrite a n d s).faulted = s.faulted := rfl
@[simp] theorem latchWrite_mem (a : Word) (n : Byte) (d : List Byte) : (latchWrite a n d s).mem = s.mem := rfl
@[simp] theorem latchWrite_tx (a : Word) (n : Byte) (d : List Byte) : (latchWrite a n d s).tx = s.tx := rfl
@[simp] theorem latchWrite_rx (a : Word) (n : Byte) (d : List Byte) : (latchWrite a n d s).rx = s.rx := rfl
@[simp] theorem latchWrite_rxTake (a : Word) (n : Byte) (d : List Byte) : (latchWrite a n d s).rxTake = s.rxTake := rfl
@[simp] theorem latchWrite_events (a : Word) (n : Byte) (d : List Byte) : (latchWrite a n d s).events = s.events := rfl
@[simp] theorem latchWrite_script (a : Word) (n : Byte) (d : List Byte) : (latchWrite a n d s).script = s.script := rfl
@[simp] theorem latchWrite_draws (a : Word) (n : Byte) (d : List Byte) : (latchWrite a n d s).draws = s.draws := rfl

/-! ### resetStep -/
@[simp] theorem resetStep_cfg (i : Inputs) : (resetStep i s).cfg = s.cfg := rfl
@[simp] theorem resetStep_phase (i : Inputs) : (resetStep i s).phase = .init := rfl
@[simp] theorem resetStep_inProgress (i : Inputs) : (resetStep i s).inProgress = false := rfl
@[simp] theorem resetStep_currentOpcode (i : Inputs) : (resetStep i s).currentOpcode = .noValue 0 := rfl
@[simp] theorem resetStep_parameterCount (i : Inputs) : (resetStep i s).parameterCount = 0 := rfl
@[simp] theorem resetStep_buf (i : Inputs) : (resetStep i s).buf = Vector.replicate capacity (.noValue 0) := rfl
@[simp] theorem resetStep_curValid (i : Inputs) : (resetStep i s).curValid = false := rfl
@[simp] theorem resetStep_curCount (i : Inputs) : (resetStep i s).curCount = .noValue 0 := rfl
@[simp] theorem resetStep_curAddr (i : Inputs) : (resetStep i s).curAddr = .noValue 0 := rfl
@[simp] theorem resetStep_curOff (i : Inputs) : (resetStep i s).curOff = .noValue 0 := rfl
@[simp] theorem resetStep_pollArmed (i : Inputs) : (resetStep i s).pollArmed = false := rfl
@[simp] theorem resetStep_switchThreshold (i : Inputs) : (resetStep i s).switchThreshold = .noValue 0 := rfl
@[simp] theorem resetStep_sonarDivider (i : Inputs) : (resetStep i s).sonarDivider = .noValue 0 := rfl
@[simp] theorem resetStep_thresholdSonar (i : Inputs) : (resetStep i s).thresholdSonar = .noValue 0 := rfl
@[simp] theorem resetStep_thresholdIR (i : Inputs) : (resetStep i s).thresholdIR = .noValue 0 := rfl
@[simp] theorem resetStep_faulted (i : Inputs) : (resetStep i s).faulted = s.faulted := rfl
@[simp] theorem resetStep_mem (i : Inputs) : (resetStep i s).mem = resetMemory i s := rfl
@[simp] theorem resetStep_tx (i : Inputs) : (resetStep i s).tx = s.tx := rfl
@[simp] theorem resetStep_rx (i : Inputs) : (resetStep i s).rx = i.rxAfterReset := rfl
@[simp] theorem resetStep_rxTake (i : Inputs) : (resetStep i s).rxTake = s.rxTake := rfl
@[simp] theorem resetStep_events (i : Inputs) : (resetStep i s).events = s.events ++ [.resetTaken] := rfl
@[simp] theorem resetStep_script (i : Inputs) : (resetStep i s).script = s.script := rfl
@[simp] theorem resetStep_draws (i : Inputs) : (resetStep i s).draws = s.draws := rfl

/-! ### pollClear -/
@[simp] theorem pollClear_cfg : (pollClear s).cfg = s.cfg := by unfold pollClear; split <;> rfl
@[simp] theorem pollClear_phase : (pollClear s).phase = s.phase := by unfold pollClear; split <;> rfl
@[simp] theorem pollClear_inProgress : (pollClear s).inProgress = s.inProgress := by unfold pollClear; split <;> rfl
@[simp] theorem pollClear_currentOpcode : (pollClear s).currentOpcode = s.currentOpcode := by unfold pollClear; split <;> rfl
@[simp] theorem pollClear_parameterCount : (pollClear s).parameterCount = s.parameterCount := by unfold pollClear; split <;> rfl
@[simp] theorem pollClear_buf : (pollClear s).buf = s.buf := by unfold pollClear; split <;> rfl
@[simp] theorem pollClear_curValid : (pollClear s).curValid = s.curValid := by unfold pollClear; split <;> rfl
@[simp] theorem pollClear_curCount : (pollClear s).curCount = s.curCount := by unfold pollClear; split <;> rfl
@[simp] theorem pollClear_curAddr : (pollClear s).curAddr = s.curAddr := by unfold pollClear; split <;> rfl
@[simp] theorem pollClear_curOff : (pollClear s).curOff = s.curOff := by unfold pollClear; split <;> rfl
@[simp] theorem pollClear_switchThreshold : (pollClear s).switchThreshold = s.switchThreshold := by unfold pollClear; split <;> rfl
@[simp] theorem pollClear_sonarDivider : (pollClear s).sonarDivider = s.sonarDivider := by unfold pollClear; split <;> rfl
@[simp] theorem pollClear_thresholdSonar : (pollClear s).thresholdSonar = s.thresholdSonar := by unfold pollClear; split <;> rfl
@[simp] theorem pollClear_thresholdIR : (pollClear s).thresholdIR = s.thresholdIR := by unfold pollClear; split <;> rfl
@[simp] theorem pollClear_faulted : (pollClear s).faulted = s.faulted := by unfold pollClear; split <;> rfl
@[simp] theorem pollClear_mem : (pollClear s).mem = s.mem := by unfold pollClear; split <;> rfl
@[simp] theorem pollClear_tx : (pollClear s).tx = s.tx := by unfold pollClear; split <;> rfl
@[simp] theorem pollClear_rx : (pollClear s).rx = s.rx := by unfold pollClear; split <;> rfl
@[simp] theorem pollClear_rxTake : (pollClear s).rxTake = s.rxTake := by unfold pollClear; split <;> rfl
@[simp] theorem pollClear_script : (pollClear s).script = s.script := by unfold pollClear; split <;> rfl
@[simp] theorem pollClear_draws : (pollClear s).draws = s.draws := by unfold pollClear; split <;> rfl
@[simp] theorem pollClear_pollArmed : (pollClear s).pollArmed = false := by
  unfold pollClear
  split
  · rfl
  · simp_all
@[simp] theorem pollClear_events : (pollClear s).events = s.events ++ (if s.pollArmed then [.pollCleared] else []) := by
  unfold pollClear
  split <;> simp_all

/-! ### settle: bytes arrive and `poll_clear` is applied -/
@[simp] theorem settle_cfg (i : Inputs) : (settle i s).cfg = s.cfg := by unfold settle; split <;> simp
@[simp] theorem settle_phase (i : Inputs) : (settle i s).phase = s.phase := by unfold settle; split <;> simp
@[simp] theorem settle_inProgress (i : Inputs) : (settle i s).inProgress = s.inProgress := by unfold settle; split <;> simp
@[simp] theorem settle_currentOpcode (i : Inputs) : (settle i s).currentOpcode = s.currentOpcode := by unfold settle; split <;> simp
@[simp] theorem settle_parameterCount (i : Inputs) : (settle i s).parameterCount = s.parameterCount := by unfold settle; split <;> simp
@[simp] theorem settle_buf (i : Inputs) : (settle i s).buf = s.buf := by unfold settle; split <;> simp
@[simp] theorem settle_curValid (i : Inputs) : (settle i s).curValid = s.curValid := by unfold settle; split <;> simp
@[simp] theorem settle_curCount (i : Inputs) : (settle i s).curCount = s.curCount := by unfold settle; split <;> simp
@[simp] theorem settle_curAddr (i : Inputs) : (settle i s).curAddr = s.curAddr := by unfold settle; split <;> simp
@[simp] theorem settle_curOff (i : Inputs) : (settle i s).curOff = s.curOff := by unfold settle; split <;> simp
@[simp] theorem settle_switchThreshold (i : Inputs) : (settle i s).switchThreshold = s.switchThreshold := by unfold settle; split <;> simp
@[simp] theorem settle_sonarDivider (i : Inputs) : (settle i s).sonarDivider = s.sonarDivider := by unfold settle; split <;> simp
@[simp] theorem settle_thresholdSonar (i : Inputs) : (settle i s).thresholdSonar = s.thresholdSonar := by unfold settle; split <;> simp
@[simp] theorem settle_thresholdIR (i : Inputs) : (settle i s).thresholdIR = s.thresholdIR := by unfold settle; split <;> simp
@[simp] theorem settle_faulted (i : Inputs) : (settle i s).faulted = s.faulted := by unfold settle; split <;> simp
@[simp] theorem settle_mem (i : Inputs) : (settle i s).mem = s.mem := by unfold settle; split <;> simp
@[simp] theorem settle_tx (i : Inputs) : (settle i s).tx = s.tx := by unfold settle; split <;> simp
@[simp] theorem settle_rx (i : Inputs) : (settle i s).rx = s.rx ++ i.arrivals := by unfold settle; split <;> simp
@[simp] theorem settle_rxTake (i : Inputs) : (settle i s).rxTake = s.rxTake := by unfold settle; split <;> simp
@[simp] theorem settle_script (i : Inputs) : (settle i s).script = s.script := by unfold settle; split <;> simp
@[simp] theorem settle_draws (i : Inputs) : (settle i s).draws = s.draws := by unfold settle; split <;> simp
@[simp] theorem settle_pollArmed (i : Inputs) : (settle i s).pollArmed = (s.pollArmed && !i.pollClear) := by
  unfold settle
  split <;> simp_all
@[simp] theorem settle_events (i : Inputs) :
    (settle i s).events = s.events ++ (if i.pollClear && s.pollArmed then [.pollCleared] else []) := by
  unfold settle
  cases hc : i.pollClear <;> cases ha : s.pollArmed <;> simp [ha]

/-! ### captureCursor -/
@[simp] theorem captureCursor_cfg : (captureCursor s).cfg = s.cfg := by unfold captureCursor; split <;> rfl
@[simp] theorem captureCursor_phase : (captureCursor s).phase = s.phase := by unfold captureCursor; split <;> rfl
@[simp] theorem captureCursor_inProgress : (captureCursor s).inProgress = s.inProgress := by unfold captureCursor; split <;> rfl
@[simp] theorem captureCursor_currentOpcode : (captureCursor s).currentOpcode = s.currentOpcode := by unfold captureCursor; split <;> rfl
@[simp] theorem captureCursor_parameterCount : (captureCursor s).parameterCount = s.parameterCount := by unfold captureCursor; split <;> rfl
@[simp] theorem captureCursor_buf : (captureCursor s).buf = s.buf := by unfold captureCursor; split <;> rfl
@[simp] theorem captureCursor_pollArmed : (captureCursor s).pollArmed = s.pollArmed := by unfold captureCursor; split <;> rfl
@[simp] theorem captureCursor_switchThreshold : (captureCursor s).switchThreshold = s.switchThreshold := by unfold captureCursor; split <;> rfl
@[simp] theorem captureCursor_sonarDivider : (captureCursor s).sonarDivider = s.sonarDivider := by unfold captureCursor; split <;> rfl
@[simp] theorem captureCursor_thresholdSonar : (captureCursor s).thresholdSonar = s.thresholdSonar := by unfold captureCursor; split <;> rfl
@[simp] theorem captureCursor_thresholdIR : (captureCursor s).thresholdIR = s.thresholdIR := by unfold captureCursor; split <;> rfl
@[simp] theorem captureCursor_faulted : (captureCursor s).faulted = s.faulted := by unfold captureCursor; split <;> rfl
@[simp] theorem captureCursor_mem : (captureCursor s).mem = s.mem := by unfold captureCursor; split <;> rfl
@[simp] theorem captureCursor_tx : (captureCursor s).tx = s.tx := by unfold captureCursor; split <;> rfl
@[simp] theorem captureCursor_rx : (captureCursor s).rx = s.rx := by unfold captureCursor; split <;> rfl
@[simp] theorem captureCursor_rxTake : (captureCursor s).rxTake = s.rxTake := by unfold captureCursor; split <;> rfl
@[simp] theorem captureCursor_events : (captureCursor s).events = s.events := by unfold captureCursor; split <;> rfl
@[simp] theorem captureCursor_script : (captureCursor s).script = s.script := by unfold captureCursor; split <;> rfl
@[simp] theorem captureCursor_draws : (captureCursor s).draws = s.draws := by unfold captureCursor; split <;> rfl

end Sys2Proof.Machine
end

