-- ==== Sys2Proof/Laws/Ops.lean ====
section
/-! SUPPORT. One lemma for each shared operation that says what it can answer. -/
namespace Sys2Proof.Machine

/-- R62: a read answers exactly below STORE_SIZE, with the byte stored. -/
theorem memRead_some {s : State} {a : Word} {v : Byte} :
    memRead s a = some v ↔ a.toNat < s.cfg.storeSize ∧ s.mem.read a.toNat = v := by
  simp [memRead, inStore]

theorem memRead_none {s : State} {a : Word} : memRead s a = none ↔ s.cfg.storeSize ≤ a.toNat := by
  simp [memRead, inStore]

/-- R63: a write answers exactly below STORE_SIZE, and changes the store alone. -/
theorem memWrite_some {s t : State} {a : Word} {v : Byte} :
    memWrite s a v = some t ↔ a.toNat < s.cfg.storeSize ∧ { s with mem := s.mem.write a.toNat v } = t := by
  simp [memWrite, inStore]

theorem memWrite_none {s : State} {a : Word} {v : Byte} : memWrite s a v = none ↔ s.cfg.storeSize ≤ a.toNat := by
  simp [memWrite, inStore]

/-- Reads see the configuration and the store, nothing else of the state. -/
theorem memRead_congr {s t : State} (hc : t.cfg = s.cfg) (hm : t.mem = s.mem) (a : Word) : memRead t a = memRead s a := by
  simp [memRead, inStore, hc, hm]

theorem memReadWord_congr {s t : State} (hc : t.cfg = s.cfg) (hm : t.mem = s.mem) (a : Word) :
    memReadWord t a = memReadWord s a := by
  simp only [memReadWord, memRead_congr hc hm]

/-- R75, R76: what Refresh would load depends on the configuration and the store alone. -/
theorem configWords_congr {s t : State} (hc : t.cfg = s.cfg) (hm : t.mem = s.mem) : configWords t = configWords s := by
  simp only [configWords, memReadWord_congr hc hm, hc]

/-- R70, R71: Refresh loads all four words or answers nothing. -/
theorem refresh_some {s t : State} (h : refresh s = some t) :
    ∃ w0 w1 w2 w3, configWords s = some (w0, w1, w2, w3) ∧
      t = emit (setCache s w0 w1 w2 w3) (.refresh w0 w1 w2 w3) := by
  unfold refresh at h
  split at h
  · exact ⟨_, _, _, _, by assumption, by simpa using h.symm⟩
  · simp at h

theorem refresh_none {s : State} : refresh s = none ↔ configWords s = none := by
  unfold refresh
  split <;> simp_all

@[simp] theorem nextInputs_cons {s : State} {i : Inputs} {rest : List Inputs} (h : s.script = i :: rest) :
    nextInputs s = i := by
  simp [nextInputs, h]

/-- Log 5: without a script the draws are the free value. -/
theorem nextInputs_nil {s : State} (h : s.script = []) : nextInputs s = Config.freeInputs s.draws := by
  simp [nextInputs, h]

theorem writePending_iff {s : State} :
    writePending s = true ↔ s.phase = .wseq ∧ s.curOff.bits < s.curCount.bits := by
  simp [writePending]

theorem writeInFlight_iff {s : State} :
    writeInFlight s = true ↔
      s.phase = .wseq ∧ s.curOff.bits < s.curCount.bits ∧ (writeAddr s).toNat < s.cfg.storeSize := by
  simp [writeInFlight, writePending, inStore, and_assoc]

/-- R222: a reset changes the store only at the address of a write in flight. -/
theorem resetMemory_read {i : Inputs} {s : State} {x : Nat} (h : writeInFlight s = false ∨ x ≠ (writeAddr s).toNat) :
    (resetMemory i s).read x = s.mem.read x := by
  unfold resetMemory
  split
  · exact read_write_other _ (h.resolve_left (by simp_all))
  · rfl

theorem resetMemory_wf {i : Inputs} {s : State} (h : Memory.wf s.mem = true) : Memory.wf (resetMemory i s) = true := by
  unfold resetMemory
  split
  · exact write_wf _ _ h
  · exact h

theorem resetMemory_bound {i : Inputs} {s : State} (h : ∀ cell ∈ s.mem, cell.1 < s.cfg.storeSize) :
    ∀ cell ∈ resetMemory i s, cell.1 < s.cfg.storeSize := by
  unfold resetMemory
  split
  · rename_i hw
    exact write_bound (writeInFlight_iff.1 hw).2.2 h
  · exact h

/-- R142: the cursor is captured at the third parameter of an EEPROM_WRITE frame and at no other byte. -/
theorem captureCursor_cases (s : State) :
    (frameClass s = .eepromWrite ∧ s.parameterCount = 3 ∧
      captureCursor s = setCursor s (operandAddress s) (operandCount s)) ∨
    (¬(frameClass s = .eepromWrite ∧ s.parameterCount = 3) ∧ captureCursor s = s) := by
  unfold captureCursor
  split
  · exact .inl ⟨by simp_all, by simp_all, rfl⟩
  · exact .inr ⟨by assumption, rfl⟩

/-! ### Byte order -/

@[simp] theorem assemble_hi_lo (a : Word) : assemble (hiByte a) (loByte a) = a := by
  apply BitVec.eq_of_getLsbD_eq
  intro k hk
  simp only [assemble, hiByte, loByte, BitVec.getLsbD_append, BitVec.getLsbD_extractLsb']
  split
  · simp_all
  · have : k - 8 < 8 := by omega
    have : 8 + (k - 8) = k := by omega
    simp_all

@[simp] theorem hiByte_assemble (h l : Byte) : hiByte (assemble h l) = h := by
  apply BitVec.eq_of_getLsbD_eq
  intro k hk
  simp only [assemble, hiByte, BitVec.getLsbD_append, BitVec.getLsbD_extractLsb']
  simp [hk]

@[simp] theorem loByte_assemble (h l : Byte) : loByte (assemble h l) = l := by
  apply BitVec.eq_of_getLsbD_eq
  intro k hk
  simp only [assemble, loByte, BitVec.getLsbD_append, BitVec.getLsbD_extractLsb']
  simp [hk]

/-! ### The parameter buffer -/

/-- Storing bytes from position `k` on writes those positions and no other. -/
theorem storeFrom_getElem (bs : List Byte) (buf : Vector (Reg Byte) capacity) (k j : Nat) (hj : j < capacity) :
    (storeFrom buf k bs)[j] =
      if h : k ≤ j ∧ j < k + bs.length then .held (bs[j - k]'(by omega)) else buf[j] := by
  induction bs generalizing buf k with
  | nil =>
    simp only [storeFrom, List.length_nil, Nat.add_zero]
    rw [dif_neg (by omega)]
  | cons b bs ih =>
    simp only [storeFrom, ih, List.length_cons]
    by_cases h1 : k = j
    · subst h1
      rw [dif_neg (by omega), dif_pos (by omega)]
      simp
    · by_cases h2 : k + 1 ≤ j ∧ j < k + 1 + bs.length
      · rw [dif_pos h2, dif_pos (by omega)]
        have : j - k = (j - (k + 1)) + 1 := by omega
        simp [this]
      · rw [dif_neg h2, dif_neg (by omega)]
        simp [h1]

end Sys2Proof.Machine
end

