-- ==== Sys2Proof/Laws/Step.lean ====
section
/-! SUPPORT. What a step can do, said once per function: cite these instead of unfolding the step. -/
namespace Sys2Proof.Machine

/-- R41's table, in the state's own fields. -/
theorem stWreq_iff {s : State} : stWreq s = true ↔ s.phase = .wseq ∧ s.curOff.bits < s.curCount.bits :=
  writePending_iff

/-- R172, R220: what keeps a pending write from being presented. -/
theorem presentsWrite_iff {i : Inputs} {s : State} :
    presentsWrite i s = true ↔ i.rst = false ∧ stWreq s = true ∧ (writeAddr s).toNat < s.cfg.storeSize := by
  simp [presentsWrite, writeInFlight_iff, stWreq_iff, and_assoc]

/-- A live state's step runs under its inputs. -/
theorem step_of_live {s : State} (h : Live s) : step s = stepWith (nextInputs s) (fresh s) := by
  simp [step, tick, h.1, h.2]

/-- Only live states have a next state (spec/00_scope.md R6, spec/10_state.md R33). -/
theorem step_next {s t : State} (h : step s = .next t) : Live s ∧ stepWith (nextInputs s) (fresh s) = .next t := by
  unfold step tick at h
  split at h
  · split at h
    · simp at h
    · exact ⟨⟨by assumption, by assumption⟩, h⟩
  · simp at h

@[simp] theorem nextInputs_fresh_cfg (s : State) : (fresh s).cfg = s.cfg := rfl

theorem frameClass_congr {s t : State} (hc : t.cfg = s.cfg) (ho : t.currentOpcode = s.currentOpcode) :
    frameClass t = frameClass s := by
  simp [frameClass, hc, ho]

/-- Every meaning answers a next state; the two that can fault do so in that state (log 8). -/
theorem exec_answers (i : Instr) (s : State) : ∃ t, exec i s = .next t := by
  cases i with
  | reset => exact ⟨_, rfl⟩
  | eepromWrite a n d => exact ⟨_, rfl⟩
  | eepromRead a =>
    simp only [exec, execEepromRead]
    split <;> exact ⟨_, rfl⟩
  | pollSonar => exact ⟨_, rfl⟩
  | unrecognized b => exact ⟨_, rfl⟩

/-- R150: what EEPROM_READ does, by whether its address is implemented. -/
theorem execEepromRead_cases (a : Word) (s : State) :
    (a.toNat < s.cfg.storeSize ∧ exec (.eepromRead a) s =
      .next (emit (finish (txAppend s (response (s.mem.read a.toNat)))) (.readDone a (s.mem.read a.toNat)))) ∨
    (s.cfg.storeSize ≤ a.toNat ∧ exec (.eepromRead a) s = .next (raiseFault s .storeRange)) := by
  by_cases h : a.toNat < s.cfg.storeSize
  · exact .inl ⟨h, by simp [exec, execEepromRead, memRead_some.2 ⟨h, rfl⟩]⟩
  · have hr : memRead s a = none := memRead_none.2 (by omega)
    exact .inr ⟨by omega, by simp [exec, execEepromRead, hr]⟩

/-- R119: the outcomes of the evaluation after a byte. -/
theorem evaluate_next {s t : State} (h : evaluate s = .next t) :
    (frameClass s = .reset ∧ s.parameterCount = 0 ∧ exec .reset s = .next t) ∨
    (frameClass s = .pollSonar ∧ s.parameterCount = 0 ∧ exec .pollSonar s = .next t) ∨
    ((frameClass s = .reset ∨ frameClass s = .pollSonar) ∧ s.parameterCount ≠ 0 ∧ t = raiseFault s .unreachable) ∨
    (frameClass s = .unrecognized ∧ exec (.unrecognized s.currentOpcode.bits) s = .next t) ∨
    (frameClass s = .eepromRead ∧ s.parameterCount < 2 ∧ t = s) ∨
    (frameClass s = .eepromRead ∧ s.parameterCount = 2 ∧ exec (.eepromRead (operandAddress s)) s = .next t) ∨
    (frameClass s = .eepromRead ∧ 2 < s.parameterCount ∧ t = reject s .readOverlength) ∨
    (frameClass s = .eepromWrite ∧ writeComplete s = false ∧ t = s) ∨
    (frameClass s = .eepromWrite ∧ writeComplete s = true ∧
      exec (.eepromWrite s.curAddr.bits s.curCount.bits (operandData s s.curCount.bits)) s = .next t) := by
  unfold evaluate at h
  split at h
  · rename_i hc
    split at h
    · rename_i hp
      exact .inl ⟨hc, by simpa [opcodeAlone] using hp, h⟩
    · rename_i hp
      exact .inr (.inr (.inl ⟨.inl hc, by simpa [opcodeAlone] using hp, by simpa using h.symm⟩))
  · rename_i hc
    split at h
    · rename_i hw
      exact .inr (.inr (.inr (.inr (.inr (.inr (.inr (.inr ⟨hc, hw, h⟩)))))))
    · rename_i hw
      exact .inr (.inr (.inr (.inr (.inr (.inr (.inr (.inl ⟨hc, by simpa using hw, by simpa using h.symm⟩)))))))
  · rename_i hc
    split at h
    · rename_i hp
      exact .inr (.inr (.inr (.inr (.inl ⟨hc, by simpa [readGoesOn] using hp, by simpa using h.symm⟩))))
    · rename_i hp
      have hp : ¬ s.parameterCount < 2 := by simpa only [readGoesOn, decide_eq_true_eq] using hp
      split at h
      · rename_i hr
        exact .inr (.inr (.inr (.inr (.inr (.inl ⟨hc, by simpa [readComplete] using hr, h⟩)))))
      · rename_i hr
        have hr : s.parameterCount ≠ 2 := by simpa [readComplete] using hr
        exact .inr (.inr (.inr (.inr (.inr (.inr (.inl ⟨hc, by omega, by simpa using h.symm⟩))))))
  · rename_i hc
    split at h
    · rename_i hp
      exact .inr (.inl ⟨hc, by simpa [opcodeAlone] using hp, h⟩)
    · rename_i hp
      exact .inr (.inr (.inl ⟨.inr hc, by simpa [opcodeAlone] using hp, by simpa using h.symm⟩))
  · rename_i hc
    exact .inr (.inr (.inr (.inl ⟨hc, h⟩)))

/-- Every evaluation answers a next state. -/
theorem evaluate_answers (s : State) : ∃ t, evaluate s = .next t := by
  unfold evaluate
  split <;> (repeat' split) <;> first | exact ⟨_, rfl⟩ | exact exec_answers _ _

/-- R113, R115, R116: a byte is refused by a full buffer, or taken in and evaluated. -/
theorem feed_next {b : Byte} {s t : State} (h : feed b s = .next t) :
    (s.inProgress = true ∧ capacity ≤ s.parameterCount ∧ t = reject s .paramOverflow) ∨
    ((s.inProgress = true → s.parameterCount < capacity) ∧ evaluate (intake b s) = .next t) := by
  unfold feed at h
  split at h
  · rename_i hf
    have hf : s.inProgress = true ∧ capacity ≤ s.parameterCount := by simpa [bufferFull] using hf
    exact .inl ⟨hf.1, hf.2, by simpa using h.symm⟩
  · rename_i hf
    exact .inr ⟨fun hp => by simpa [bufferFull, hp] using hf, h⟩

theorem feed_answers (b : Byte) (s : State) : ∃ t, feed b s = .next t := by
  unfold feed
  split
  · exact ⟨_, rfl⟩
  · exact evaluate_answers _

/-- R171 to R173: the sequencer's step. -/
theorem seqStep_cases (ack : Bool) (s : State) :
    (s.curOff.bits = s.curCount.bits ∧ seqStep ack s = finishWriteSequence s) ∨
    (s.curCount.bits < s.curOff.bits ∧ seqStep ack s = raiseFault s .unreachable) ∨
    (s.curOff.bits < s.curCount.bits ∧ seqStep ack s = writeStep ack s) := by
  unfold seqStep
  split
  · exact .inl ⟨by simp_all [allWritten], rfl⟩
  · rename_i h1
    split
    · exact .inr (.inl ⟨by simp_all [pastCount], rfl⟩)
    · rename_i h2
      refine .inr (.inr ⟨?_, rfl⟩)
      simp only [allWritten, pastCount, decide_eq_true_eq] at h1 h2
      bv_omega

/-- R172: what a write step leaves. -/
theorem writeStep_cases (ack : Bool) (s : State) :
    (capacity ≤ 3 + s.curOff.bits.toNat ∧ writeStep ack s = raiseFault s .unreachable) ∨
    (s.cfg.storeSize ≤ (writeAddr s).toNat ∧ writeStep ack s = raiseFault s .storeRange) ∨
    (∃ h : 3 + s.curOff.bits.toNat < capacity, (writeAddr s).toNat < s.cfg.storeSize ∧ ack = true ∧
      writeStep ack s = emit { s with
        mem := s.mem.write (writeAddr s).toNat s.buf[3 + s.curOff.bits.toNat].bits
        curOff := .held (s.curOff.bits + 1) } (.writeAck (writeAddr s) s.buf[3 + s.curOff.bits.toNat].bits)) ∨
    (∃ h : 3 + s.curOff.bits.toNat < capacity, (writeAddr s).toNat < s.cfg.storeSize ∧ ack = false ∧
      writeStep ack s = emit s (.writeWait (writeAddr s) s.buf[3 + s.curOff.bits.toNat].bits)) := by
  by_cases hb : 3 + s.curOff.bits.toNat < capacity
  · have hd : bufByte? s (3 + s.curOff.bits.toNat) = some s.buf[3 + s.curOff.bits.toNat].bits := by
      simp [bufByte?, Vector.getElem?_eq_getElem hb]
    by_cases hr : (writeAddr s).toNat < s.cfg.storeSize
    · cases ack with
      | true => exact .inr (.inr (.inl ⟨hb, hr, rfl, by simp [writeStep, hd, memWrite, inStore, hr]⟩))
      | false => exact .inr (.inr (.inr ⟨hb, hr, rfl, by simp [writeStep, hd, memWrite, inStore, hr]⟩))
    · exact .inr (.inl ⟨by omega, by simp [writeStep, hd, memWrite, inStore, hr]⟩)
  · have hn : bufByte? s (3 + s.curOff.bits.toNat) = none := by
      simp [bufByte?, Vector.getElem?_eq_none (show capacity ≤ 3 + s.curOff.bits.toNat by omega)]
    exact .inl ⟨by omega, by simp [writeStep, hn]⟩

/-- R173: the finishing step. -/
theorem finishWriteSequence_cases (s : State) :
    (configWords s = none ∧ finishWriteSequence s = raiseFault s .storeRange) ∨
    (∃ w0 w1 w2 w3, configWords s = some (w0, w1, w2, w3) ∧
      finishWriteSequence s =
        { finish (emit (emit (setCache s w0 w1 w2 w3) (.refresh w0 w1 w2 w3))
            (.writeDone s.curAddr.bits s.curCount.bits)) with phase := .ready }) := by
  unfold finishWriteSequence
  split
  · exact .inl ⟨refresh_none.1 (by assumption), rfl⟩
  · rename_i s' h
    obtain ⟨w0, w1, w2, w3, hw, rfl⟩ := refresh_some h
    exact .inr ⟨w0, w1, w2, w3, hw, rfl⟩

/-- R221: the INIT step. -/
theorem initStep_cases (s : State) :
    (configWords s = none ∧ initStep s = raiseFault s .storeRange) ∨
    (∃ w0 w1 w2 w3, configWords s = some (w0, w1, w2, w3) ∧
      initStep s =
        emit { emit (setCache s w0 w1 w2 w3) (.refresh w0 w1 w2 w3) with phase := .ready } .initDone) := by
  unfold initStep
  split
  · exact .inl ⟨refresh_none.1 (by assumption), rfl⟩
  · rename_i s' h
    obtain ⟨w0, w1, w2, w3, hw, rfl⟩ := refresh_some h
    exact .inr ⟨w0, w1, w2, w3, hw, rfl⟩

/-- R110, R111: a step is a reset, or the phase's action on the settled state. -/
theorem stepWith_next {i : Inputs} {s t : State} (h : stepWith i s = .next t) :
    (i.rst = true ∧ t = resetStep i s) ∨
    (i.rst = false ∧ s.phase = .init ∧ t = initStep (settle i s)) ∨
    (i.rst = false ∧ s.phase = .ready ∧ offered i (settle i s) = none ∧ t = settle i s) ∨
    (i.rst = false ∧ s.phase = .ready ∧ ∃ b, offered i (settle i s) = some b ∧
      feed b (takeHead (settle i s)) = .next t) ∨
    (i.rst = false ∧ s.phase = .wseq ∧ t = seqStep i.stAck (settle i s)) ∨
    (i.rst = false ∧ s.phase = .resetReq ∧ t = settle i s) := by
  unfold stepWith at h
  split at h
  · exact .inl ⟨by assumption, by simpa using h.symm⟩
  · rename_i hr
    have hr : i.rst = false := by simpa using hr
    unfold phaseStep at h
    rw [settle_phase] at h
    split at h
    · exact .inr (.inl ⟨hr, by assumption, by simpa using h.symm⟩)
    · unfold readyStep at h
      split at h
      · exact .inr (.inr (.inr (.inl ⟨hr, by assumption, _, by assumption, h⟩)))
      · exact .inr (.inr (.inl ⟨hr, by assumption, by assumption, by simpa using h.symm⟩))
    · exact .inr (.inr (.inr (.inr (.inl ⟨hr, by assumption, by simpa using h.symm⟩))))
    · exact .inr (.inr (.inr (.inr (.inr ⟨hr, by assumption, by simpa using h.symm⟩))))

/-- The reset branch. -/
theorem stepWith_rst {i : Inputs} (s : State) (h : i.rst = true) : stepWith i s = .next (resetStep i s) := by
  simp [stepWith, h]

/-- The phase's branch. -/
theorem stepWith_noRst {i : Inputs} (s : State) (h : i.rst = false) : stepWith i s = phaseStep i (settle i s) := by
  simp [stepWith, h]

/-- An offered byte is the head of RX (spec/10_state.md R40). -/
theorem offered_some {i : Inputs} {s : State} {b : Byte} (h : offered i s = some b) :
    i.rxOffer = true ∧ ∃ rest, s.rx = b :: rest := by
  unfold offered at h
  split at h
  · refine ⟨by assumption, ?_⟩
    cases hx : s.rx with
    | nil => simp [hx] at h
    | cons x xs => exact ⟨xs, by simpa [hx] using h⟩
  · simp at h

end Sys2Proof.Machine
end

