-- ==== Sys2Proof/Laws/Keeps.lean ====
section
/-! SUPPORT. What the byte intake, the meanings and the evaluation leave alone, and how the invariants carry over. -/
namespace Sys2Proof.Machine

/-! ### The byte intake -/

theorem intake_idle {b : Byte} {s : State} (h : s.inProgress = false) : intake b s = opcodeByte b s := by
  simp [intake, h]

theorem intake_busy {b : Byte} {s : State} (h : s.inProgress = true) :
    intake b s = captureCursor (appendParam b s) := by
  simp [intake, h]

@[simp] theorem intake_inProgress (b : Byte) (s : State) : (intake b s).inProgress = true := by
  unfold intake; split <;> simp_all
@[simp] theorem intake_cfg (b : Byte) (s : State) : (intake b s).cfg = s.cfg := by
  unfold intake; split <;> simp
@[simp] theorem intake_phase (b : Byte) (s : State) : (intake b s).phase = s.phase := by
  unfold intake; split <;> simp
@[simp] theorem intake_pollArmed (b : Byte) (s : State) : (intake b s).pollArmed = s.pollArmed := by
  unfold intake; split <;> simp
@[simp] theorem intake_switchThreshold (b : Byte) (s : State) : (intake b s).switchThreshold = s.switchThreshold := by
  unfold intake; split <;> simp
@[simp] theorem intake_sonarDivider (b : Byte) (s : State) : (intake b s).sonarDivider = s.sonarDivider := by
  unfold intake; split <;> simp
@[simp] theorem intake_thresholdSonar (b : Byte) (s : State) : (intake b s).thresholdSonar = s.thresholdSonar := by
  unfold intake; split <;> simp
@[simp] theorem intake_thresholdIR (b : Byte) (s : State) : (intake b s).thresholdIR = s.thresholdIR := by
  unfold intake; split <;> simp
@[simp] theorem intake_faulted (b : Byte) (s : State) : (intake b s).faulted = s.faulted := by
  unfold intake; split <;> simp
@[simp] theorem intake_mem (b : Byte) (s : State) : (intake b s).mem = s.mem := by
  unfold intake; split <;> simp
@[simp] theorem intake_tx (b : Byte) (s : State) : (intake b s).tx = s.tx := by
  unfold intake; split <;> simp
@[simp] theorem intake_rx (b : Byte) (s : State) : (intake b s).rx = s.rx := by
  unfold intake; split <;> simp
@[simp] theorem intake_rxTake (b : Byte) (s : State) : (intake b s).rxTake = s.rxTake := by
  unfold intake; split <;> simp
@[simp] theorem intake_script (b : Byte) (s : State) : (intake b s).script = s.script := by
  unfold intake; split <;> simp
@[simp] theorem intake_draws (b : Byte) (s : State) : (intake b s).draws = s.draws := by
  unfold intake; split <;> simp

/-! ### The meanings and the evaluation -/

/-- What no command's completion changes: the configuration, the store, the cache, RX, the take bit, the draws. -/
theorem exec_keeps {i : Instr} {s t : State} (h : exec i s = .next t) :
    t.cfg = s.cfg ∧ t.mem = s.mem ∧ t.switchThreshold = s.switchThreshold ∧ t.sonarDivider = s.sonarDivider ∧
      t.thresholdSonar = s.thresholdSonar ∧ t.thresholdIR = s.thresholdIR ∧ t.rx = s.rx ∧ t.rxTake = s.rxTake ∧
      t.script = s.script ∧ t.draws = s.draws := by
  cases i with
  | reset => cases h; simp
  | eepromWrite a n d => cases h; simp
  | eepromRead a => rcases execEepromRead_cases a s with ⟨_, h2⟩ | ⟨_, h2⟩ <;> rw [h2] at h <;> cases h <;> simp
  | pollSonar => cases h; simp
  | unrecognized b => cases h; simp

/-- Every command but EEPROM_WRITE ends its frame, unless it faults. -/
theorem exec_ends {i : Instr} {s t : State} (hi : ∀ a n d, i ≠ .eepromWrite a n d) (h : exec i s = .next t)
    (hf : t.faulted = none) : t.inProgress = false ∧ t.parameterCount = 0 ∧ t.curValid = false := by
  cases i with
  | reset => cases h; simp
  | eepromWrite a n d => exact absurd rfl (hi a n d)
  | eepromRead a =>
    rcases execEepromRead_cases a s with ⟨_, h2⟩ | ⟨_, h2⟩ <;> rw [h2] at h <;> cases h <;> simp at hf ⊢
  | pollSonar => cases h; simp
  | unrecognized b => cases h; simp

theorem evaluate_keeps {s t : State} (h : evaluate s = .next t) :
    t.cfg = s.cfg ∧ t.mem = s.mem ∧ t.switchThreshold = s.switchThreshold ∧ t.sonarDivider = s.sonarDivider ∧
      t.thresholdSonar = s.thresholdSonar ∧ t.thresholdIR = s.thresholdIR ∧ t.rx = s.rx ∧ t.rxTake = s.rxTake ∧
      t.script = s.script ∧ t.draws = s.draws := by
  rcases evaluate_next h with ⟨_, _, h⟩ | ⟨_, _, h⟩ | ⟨_, _, h⟩ | ⟨_, h⟩ | ⟨_, _, h⟩ | ⟨_, _, h⟩ | ⟨_, _, h⟩ |
    ⟨_, _, h⟩ | ⟨_, _, h⟩
  all_goals first
    | exact exec_keeps h
    | (subst h; simp)

theorem feed_keeps {b : Byte} {s t : State} (h : feed b s = .next t) :
    t.cfg = s.cfg ∧ t.mem = s.mem ∧ t.switchThreshold = s.switchThreshold ∧ t.sonarDivider = s.sonarDivider ∧
      t.thresholdSonar = s.thresholdSonar ∧ t.thresholdIR = s.thresholdIR ∧ t.rx = s.rx ∧ t.rxTake = s.rxTake ∧
      t.script = s.script ∧ t.draws = s.draws := by
  rcases feed_next h with ⟨_, _, rfl⟩ | ⟨_, h⟩
  · simp
  · simpa using evaluate_keeps h

/-! ### Steps and runs -/

/-- A step that takes a byte feeds it. -/
theorem ready_step {s : State} {b : Byte} (hl : Live s) (hp : s.phase = .ready) (hr : (nextInputs s).rst = false)
    (hb : stepByte s = some b) : step s = feed b (takeHead (acting s)) := by
  have hb : offered (nextInputs s) (settle (nextInputs s) (fresh s)) = some b := hb
  rw [step_of_live hl, stepWith_noRst _ hr]
  simp [phaseStep, hp, readyStep, hb, acting]

/-- A step of the sequencer. -/
theorem wseq_step {s : State} (hl : Live s) (hp : s.phase = .wseq) (hr : (nextInputs s).rst = false) :
    step s = .next (seqStep (nextInputs s).stAck (acting s)) := by
  rw [step_of_live hl, stepWith_noRst _ hr]
  simp [phaseStep, hp, acting]

@[simp] theorem writeAddr_acting (s : State) : writeAddr (acting s) = writeAddr s := by
  simp [writeAddr, acting]

theorem run_succ {s t : State} {k : Nat} (h : step s = .next t) :
    Sys2Proof.core.run (k + 1) s = Sys2Proof.core.run k t := by
  have h' : Sys2Proof.core.step s = .next t := h
  simp only [Host.Core.run, h']

/-- A run of `k + m` steps is a run of `k` steps and then one of `m`. -/
theorem run_add {s t : State} {k m : Nat} (h : Sys2Proof.core.run k s = .next t) :
    Sys2Proof.core.run (k + m) s = Sys2Proof.core.run m t := by
  induction k generalizing s with
  | zero => cases h; rw [Nat.zero_add]
  | succ k ih =>
    rw [show k + 1 + m = (k + m) + 1 by omega]
    have hc : Sys2Proof.core.step s = step s := rfl
    cases hst : step s with
    | next s' => rw [run_succ hst] at h ⊢; exact ih h
    | fault r => simp only [Host.Core.run, hc, hst] at h; cases h
    | refused r => simp only [Host.Core.run, hc, hst] at h; cases h

/-! ### The invariants carry over -/

theorem FrameInv.congr {s t : State} (h : FrameInv s) (h1 : t.cfg = s.cfg) (h2 : t.phase = s.phase)
    (h3 : t.inProgress = s.inProgress) (h4 : t.currentOpcode = s.currentOpcode)
    (h5 : t.parameterCount = s.parameterCount) (h6 : t.curValid = s.curValid) (h7 : t.curCount = s.curCount)
    (h8 : t.curOff = s.curOff) (h9 : t.switchThreshold = s.switchThreshold) (h10 : t.sonarDivider = s.sonarDivider)
    (h11 : t.thresholdSonar = s.thresholdSonar) (h12 : t.thresholdIR = s.thresholdIR) : FrameInv t := by
  constructor <;> simp only [h1, h2, h3, h4, h5, h6, h7, h8, h9, h10, h11, h12]
  · exact h.countBound
  · exact h.idle
  · exact h.cursor
  · exact h.wseq
  · exact h.readyCursor
  · exact h.stopped
  · exact h.cacheHeld
  · exact h.readShort

theorem LatchInv.congr {s t : State} (h : LatchInv s) (h1 : t.cfg = s.cfg) (h2 : t.phase = s.phase)
    (h3 : t.inProgress = s.inProgress) (h4 : t.currentOpcode = s.currentOpcode)
    (h5 : t.parameterCount = s.parameterCount) (h6 : t.curValid = s.curValid) (h7 : t.curCount = s.curCount)
    (h8 : t.curOff = s.curOff) (h9 : t.curAddr = s.curAddr) (h10 : t.buf = s.buf) : LatchInv t := by
  constructor <;>
    simp only [h1, h2, h3, h4, h5, h6, h7, h8, h9, h10, frameClass, operandCount, operandAddress]
  · exact h.opcodeHeld
  · exact h.paramsHeld
  · exact h.cursorHeld
  · exact h.cursorOperands
  · exact h.readyOffset
  · exact h.captured
  · exact h.inFlightClass

/-- An idle state out of WSEQ, with a loaded cache once out of INIT, meets the frame invariants. -/
theorem FrameInv.of_idle {s : State} (h1 : s.inProgress = false) (h2 : s.parameterCount = 0) (h3 : s.curValid = false)
    (h4 : s.phase ≠ .wseq) (h5 : s.phase ≠ .init →
      s.switchThreshold.hasValue = true ∧ s.sonarDivider.hasValue = true ∧
        s.thresholdSonar.hasValue = true ∧ s.thresholdIR.hasValue = true) : FrameInv s := by
  constructor <;> simp_all

theorem LatchInv.of_idle {s : State} (h1 : s.inProgress = false) (h2 : s.parameterCount = 0)
    (h3 : s.curValid = false) : LatchInv s := by
  constructor <;> simp_all

/-- Where every configuration byte exists, Refresh would load the four words of the store. -/
theorem configWords_of_inStore {s : State}
    (h : ∀ f, (configAddr s.cfg f).toNat < s.cfg.storeSize ∧ (configAddr s.cfg f + 1).toNat < s.cfg.storeSize) :
    let word := fun f => assemble (s.mem.read (configAddr s.cfg f).toNat) (s.mem.read (configAddr s.cfg f + 1).toNat)
    configWords s = some (word .switchThreshold, word .sonarDivider, word .thresholdSonar, word .thresholdIR) := by
  have hw : ∀ f, memReadWord s (configAddr s.cfg f) =
      some (assemble (s.mem.read (configAddr s.cfg f).toNat) (s.mem.read (configAddr s.cfg f + 1).toNat)) := fun f => by
    simp only [memReadWord, memRead_some.2 ⟨(h f).1, rfl⟩, memRead_some.2 ⟨(h f).2, rfl⟩]
  have h0 := hw .switchThreshold
  have h1 := hw .sonarDivider
  have h2 := hw .thresholdSonar
  have h3 := hw .thresholdIR
  simp only [configAddr] at h0 h1 h2 h3
  simp only [configWords, h0, h1, h2, h3, configAddr]

/-! ### The operands of an EEPROM_WRITE frame -/

theorem operandData_length {s : State} {n : Byte} (h : n.toNat ≤ 29) : (operandData s n).length = n.toNat := by
  simp [operandData, capacity]
  omega

theorem operandData_getElem {s : State} {n : Byte} (k : Nat) (h : k < 29) (hk : k < (operandData s n).length) :
    (operandData s n)[k] = (s.buf[3 + k]'(by simp [capacity]; omega)).bits := by
  simp [operandData]

/-- Log 12: latching the operands of a frame whose registers hold them already changes nothing. -/
theorem latchWrite_self {s : State} (hi : s.inProgress = true) (ho : s.currentOpcode = .held s.cfg.opcEepromWrite)
    (hpc : s.parameterCount = s.curCount.bits.toNat + 3) (hle : s.parameterCount ≤ capacity) (hv : s.curValid = true)
    (h1 : s.curCount.hasValue = true) (h2 : s.curAddr.hasValue = true) (h3 : s.curOff = .held 0)
    (hc : s.curCount.bits = operandCount s) (ha : s.curAddr.bits = operandAddress s)
    (hb : ∀ k (h : k < capacity), k < s.parameterCount → s.buf[k].hasValue = true) :
    latchWrite s.curAddr.bits s.curCount.bits (operandData s s.curCount.bits) s = s := by
  have hn : s.curCount.bits.toNat ≤ 29 := by simp [capacity] at hle; omega
  have heta : ∀ {α : Type} {r : Reg α} {x : α}, r.hasValue = true → r.bits = x → Reg.held x = r := by
    intro α r x h h'
    cases r
    cases h'
    simp_all [Reg.held]
  have hbuf : storeFrom s.buf 0
      (hiByte s.curAddr.bits :: loByte s.curAddr.bits :: s.curCount.bits :: operandData s s.curCount.bits) = s.buf := by
    apply Vector.ext
    intro k hk
    rw [storeFrom_getElem _ _ _ _ hk]
    split
    · rename_i hlt
      simp only [List.length_cons, operandData_length hn] at hlt
      apply heta (hb k hk (by omega))
      match k, hk, hlt with
      | 0, _, _ => simp [ha, operandAddress]
      | 1, _, _ => simp [ha, operandAddress]
      | 2, _, _ => simp [hc, operandCount]
      | k + 3, hk, hlt =>
        simp only [Nat.sub_zero, List.getElem_cons_succ]
        rw [operandData_getElem _ (by omega)]
        congr 2
        omega
    · rfl
  apply State.ext <;> simp
  · exact hi
  · exact ho.symm
  · exact hpc.symm
  · exact hbuf
  · exact hv
  · exact heta h1 rfl
  · exact heta h2 rfl
  · exact h3.symm

end Sys2Proof.Machine
end

