-- ==== Sys2Proof/Laws/PerInstr.lean ====
section
/-! SUPPORT. Statements about every instruction as syntax, one lemma per constructor. -/
namespace Sys2Proof.Laws.FrameShape

/-- The frame of a well-formed command (spec/30_encoding.md R93, R95): it starts with the command's opcode, has the
length of its format's row, and is at most 33 bytes. -/
def Statement (i : Instr) : Prop :=
  ∀ c : Config, i.wellFormed c = true →
    (encode c i).head? = some (i.opcodeByte c) ∧ (encode c i).length = i.frameLength ∧
      (encode c i).length ≤ capacity + 1

theorem reset : Statement .reset := fun _ _ => ⟨rfl, rfl, by simp [encode]⟩

theorem eepromWrite (a : Word) (n : Byte) (d : List Byte) : Statement (.eepromWrite a n d) := by
  intro c h
  obtain ⟨hd, hn⟩ : d.length = n.toNat ∧ n.toNat ≤ 29 := by simpa [Instr.wellFormed, maxCount, capacity] using h
  refine ⟨rfl, ?_, ?_⟩
  · simp [encode, Instr.frameLength, hd]
    omega
  · simp [encode, hd, capacity]
    omega

theorem eepromRead (a : Word) : Statement (.eepromRead a) := fun _ _ => ⟨rfl, rfl, by simp [encode]⟩

theorem pollSonar : Statement .pollSonar := fun _ _ => ⟨rfl, rfl, by simp [encode]⟩

theorem unrecognized (b : Byte) : Statement (.unrecognized b) := fun _ _ => ⟨rfl, rfl, by simp [encode]⟩

end Sys2Proof.Laws.FrameShape
end

