-- ==== Sys2Proof/Tests/Slice0.lean ====
section
/-! SUPPORT. Small tests, their expected results from spec/95_test_vectors.md and the encodings of spec/30_encoding.md, and
for every obligation with hypotheses a witness that meets them all. -/
namespace Sys2Proof.Tests

open Sys2Proof.Machine

/-! ### Helpers -/

/-- The state S0(M) of spec/95_test_vectors.md: the state after the INIT step. -/
def s0 (c : Config) (m : Memory) (rx : List Byte) (script : List Inputs) : State :=
  { initStep (State.start c m rx script) with events := [] }

/-- TC with a store of 512 bytes (vectors W9 and D6). -/
def small : Config := { Config.tc with storeSize := 512 }

/-- TC with a store of one byte: no configuration word is whole in it. -/
def tiny : Config := { Config.tc with storeSize := 1 }

/-- Two equal opcode values (vector E4). -/
def equalOpcodes : Config := { Config.tc with opcPollSonar := 0x01 }

/-- READY and idle, RX and the script as given. -/
def idle (rx : List Byte) (script : List Inputs) : State := s0 Config.tc [] rx script

/-- The sequencer of the frame `02 a n d` at offset `off`. -/
def writing (c : Config) (a : Word) (n : Byte) (d : List Byte) (off : Byte) (script : List Inputs) : State :=
  { latchWrite a n d (s0 c [] [] script) with phase := .wseq, curOff := .held off }

def resetInputs : Inputs := { ackInputs with rst := true, pollClear := true, resetByte := 0x5A, rxAfterReset := [0x04] }

/-- The outcome is a next state in which `p` holds. -/
def nextIs (o : Host.Outcome State Fault Refusal) (p : State → Bool) : Bool :=
  match o with
  | .next t => p t
  | .fault _ => false
  | .refused _ => false

theorem exists_next {o : Host.Outcome State Fault Refusal} {p : State → Bool} (h : nextIs o p = true) :
    ∃ t, o = .next t ∧ p t = true := by
  cases o with
  | next t => exact ⟨t, rfl, h⟩
  | fault k => simp [nextIs] at h
  | refused r => simp [nextIs] at h

/-- The next state of an outcome that is one, without the property. -/
theorem exists_next_only {o : Host.Outcome State Fault Refusal} (h : nextIs o (fun _ => true) = true) :
    ∃ t, o = .next t := by
  obtain ⟨t, ht, _⟩ := exists_next h
  exact ⟨t, ht⟩

theorem acks_of {n : Nat} : ∀ i ∈ List.replicate n ackInputs, Acks i := by
  intro i hi
  rw [List.eq_of_mem_replicate hi]
  exact ⟨rfl, rfl, rfl⟩

theorem offers_of {n : Nat} {i : Inputs} (h : Offers i) : ∀ x ∈ List.replicate n i, Offers x := by
  intro x hx
  rw [List.eq_of_mem_replicate hx]
  exact h

/-! ### Well-formedness: one ill-formed term for each check -/

theorem test_wf_tc : Config.tc.wellFormed = true ∧ small.wellFormed = true ∧ tiny.wellFormed = true := by decide
theorem test_wf_opcodes : equalOpcodes.wellFormed = false ∧
    { Config.tc with opcEepromWrite := 0x01 }.wellFormed = false ∧
    { Config.tc with opcEepromRead := 0x01 }.wellFormed = false ∧
    { Config.tc with opcEepromRead := 0x02 }.wellFormed = false ∧
    { Config.tc with opcPollSonar := 0x02 }.wellFormed = false ∧
    { Config.tc with opcPollSonar := 0x03 }.wellFormed = false := by decide
theorem test_wf_no_store : { Config.tc with storeSize := 0 }.wellFormed = false := by decide
theorem test_wf_large_store : { Config.tc with storeSize := 65537 }.wellFormed = false := by decide
theorem test_wf_write_short : (Instr.eepromWrite 0x0010 3 [0xAA, 0xBB]).wellFormed Config.tc = false := by decide
theorem test_wf_write_long : (Instr.eepromWrite 0x0010 30 (List.replicate 30 0)).wellFormed Config.tc = false := by decide
theorem test_wf_opcode_byte : (Instr.unrecognized 0x01).wellFormed Config.tc = false ∧
    (Instr.unrecognized 0x02).wellFormed Config.tc = false ∧ (Instr.unrecognized 0x03).wellFormed Config.tc = false ∧
    (Instr.unrecognized 0x04).wellFormed Config.tc = false ∧ (Instr.unrecognized 0x05).wellFormed Config.tc = true := by
  decide

/-! ### Decoding: bytes written out from R93, and vectors E1, E2, E5 -/

theorem test_decode_reset : decode Config.tc [0b00000001] = .frame .reset [] := by decide
theorem test_decode_write :
    decode Config.tc [0b00000010, 0x12, 0x34, 0b00000010, 0xAB, 0xCD, 0x04] = .frame (.eepromWrite 0x1234 2 [0xAB, 0xCD]) [0x04] := by
  decide
theorem test_decode_read : decode Config.tc [0b00000011, 0x12, 0x34] = .frame (.eepromRead 0x1234) [] := by decide
theorem test_decode_poll : decode Config.tc [0b00000100] = .frame .pollSonar [] := by decide
theorem test_decode_unrecognized : decode Config.tc [0b11111111] = .frame (.unrecognized 0xFF) [] := by decide
theorem test_decode_classes : [0x00, 0x05, 0x7F, 0x80, 0xFF].map (decodeClass Config.tc) =
    List.replicate 5 CommandClass.unrecognized := by decide
theorem test_decode_unfinished : decode Config.tc [0x03, 0x00] = .needMore ∧ decode Config.tc [0x02, 0x00, 0x10, 0x01] = .needMore := by
  decide
theorem test_frame_lengths : ([.reset, .pollSonar, .unrecognized 0xFF, .eepromRead 0, .eepromWrite 0 0 [],
    .eepromWrite 0 3 [1, 2, 3], .eepromWrite 0 29 (List.replicate 29 7)].map fun i => (encode Config.tc i).length) =
    [1, 1, 1, 3, 4, 7, 33] := by decide
theorem test_set_config : programBytes Config.tc [setConfig Config.tc .thresholdSonar 0x01F4] =
    [0x02, 0x00, 0x04, 0x02, 0x01, 0xF4] := by decide

/-! ### One step each: vectors of spec/95_test_vectors.md -/

/-- R1, step 1. -/
theorem test_reset_request : nextIs (step (idle [0x01, 0x04] [ackInputs])) (fun t =>
    t.phase = .resetReq && sysResetReq t && !t.inProgress && t.tx = [] && t.rx = [0x04] &&
    t.events = [.frameStart 0x01, .resetRequested]) = true := by decide
/-- I3, step 9, with the inputs of I5. -/
theorem test_reset_draw :
    nextIs (step { writing Config.tc 0x0010 3 [0xAA, 0xBB, 0xCC] 1 [resetInputs] with mem := [(0x10, 0xAA)], pollArmed := true })
      (fun t => t.mem = [(0x10, 0xAA), (0x11, 0x5A)] && t.phase = .init && !t.curValid && !t.pollArmed && !t.rxTake &&
        t.events = [.resetTaken] && cfgSwitchThreshold t = none) = true := by decide
/-- W3, the third write: the address wraps; the wait of W6 beside it. -/
theorem test_write_wraps :
    nextIs (step (writing Config.tc 0xFFFE 4 [0x11, 0x22, 0x33, 0x44] 2 [ackInputs])) (fun t =>
      t.mem = [(0, 0x33)] && t.curOff = .held 3 && t.events = [.writeAck 0x0000 0x33]) = true ∧
    nextIs (step (writing Config.tc 0xFFFE 4 [0x11, 0x22, 0x33, 0x44] 2 [offerInputs])) (fun t =>
      t.mem = [] && t.curOff = .held 2 && stWreq t && stWdata t = some 0x33 && t.events = [.writeWait 0x0000 0x33]) = true := by
  decide
/-- W9, step 8, and A3, step 34. -/
theorem test_write_stops :
    nextIs (step { writing small 0x01FF 2 [0xAB, 0xCD] 1 [ackInputs] with mem := [(0x1FF, 0xAB)] }) (fun t =>
      t.faulted = some .storeRange && t.mem = [(0x1FF, 0xAB)] && t.curOff = .held 1) = true ∧
    nextIs (step (placeFrame (idle [] []) ([0x02, 0x00, 0x20, 0x1E] ++ List.replicate 30 0x1D))) (fun t =>
      t.phase = .ready && !t.inProgress && !t.curValid && t.mem = [] && t.rx = [] && t.events = [.reject .paramOverflow]) =
      true := by decide
/-- S2, step 3. -/
theorem test_read_answers :
    nextIs (step (placeFrame (s0 Config.tc [(5, 0x2A)] [] []) [0x03, 0x00, 0x05])) (fun t =>
      t.tx = [0x30, 0x20, 0x32, 0x41, 0x0A, 0x0D] && !t.inProgress && t.events = [.param 1 0x05, .readDone 0x0005 0x2A]) =
      true := by decide
/-- D6, step 3. -/
theorem test_read_faults :
    nextIs (step (placeFrame (s0 small [] [] []) [0x03, 0x02, 0x00])) (fun t =>
      t.faulted = some .storeRange && t.tx = [] && t.inProgress && t.parameterCount = 2) = true := by decide
/-- P1 and P3. -/
theorem test_poll_after_clear :
    nextIs (step (idle [0x04] [offerInputs])) (fun t => pollArmedOut t && t.events = [.frameStart 0x04, .pollArmed]) = true ∧
    nextIs (step { idle [0x04] [{ offerInputs with pollClear := true }] with pollArmed := true }) (fun t =>
      t.pollArmed && t.events = [.pollCleared, .frameStart 0x04, .pollArmed]) = true := by decide
/-- U1. -/
theorem test_unrecognized_dropped : nextIs (step (idle [0xFF] [offerInputs])) (fun t =>
    !t.inProgress && t.phase = .ready && t.tx = [] && t.events = [.frameStart 0xFF, .reject .unrecognizedOpcode]) = true := by
  decide
/-- I1. -/
theorem test_init_refresh :
    nextIs (step (State.start Config.tc [(0, 0x00), (1, 0x0A), (2, 0x00), (3, 0x04), (4, 0x00), (5, 0x64), (6, 0x00), (7, 0x32)]
      [0x04] [offerInputs])) (fun t =>
      cfgSwitchThreshold t = some 10 && cfgSonarDivider t = some 4 && cfgThresholdSonar t = some 100 &&
      cfgThresholdIR t = some 50 && t.phase = .ready && t.rx = [0x04] && !t.rxTake &&
      t.events = [.refresh 0x000A 0x0004 0x0064 0x0032, .initDone]) = true := by decide
/-- S1, step 11, and W5: the finishing step. -/
theorem test_finish_refreshes :
    nextIs (step { writing Config.tc 0x0004 4 [0x00, 0x64, 0x00, 0x32] 4 [ackInputs] with
      mem := [(4, 0x00), (5, 0x64), (6, 0x00), (7, 0x32)] }) (fun t =>
      cfgThresholdSonar t = some 100 && cfgThresholdIR t = some 50 && t.phase = .ready && !t.inProgress && !t.curValid &&
      t.events = [.refresh 0xFFFF 0xFFFF 0x0064 0x0032, .writeDone 0x0004 4]) = true := by decide
/-- The host's question, for one row. -/
theorem test_fetch_word : nextIs (step (State.reset.withFetchWord 24 0x050003)) (fun t =>
    t.tx = [0x30, 0x20, 0x46, 0x46, 0x0A, 0x0D] && !t.inProgress) = true := by decide

/-- R41's table, R172 and R220: st_wreq is 1 in W9's step 8 and in I5, and neither step presents the write. -/
theorem test_request_outputs :
    stWreq (writing small 0x01FF 2 [0xAB, 0xCD] 1 []) = true ∧
    stWaddr (writing small 0x01FF 2 [0xAB, 0xCD] 1 []) = some 0x0200 ∧
    presentsWrite ackInputs (writing small 0x01FF 2 [0xAB, 0xCD] 1 []) = false ∧
    stWreq (writing Config.tc 0x0010 3 [0xAA, 0xBB, 0xCC] 1 []) = true ∧
    presentsWrite resetInputs (writing Config.tc 0x0010 3 [0xAA, 0xBB, 0xCC] 1 []) = false ∧
    presentsWrite ackInputs (writing Config.tc 0x0010 3 [0xAA, 0xBB, 0xCC] 1 []) = true := by decide

/-! ### Witnesses: states that meet the hypotheses of the obligations -/

theorem idle_live (rx : List Byte) (script : List Inputs) : Live (idle rx script) := ⟨rfl, rfl⟩

theorem idle_phase (rx : List Byte) (script : List Inputs) : (idle rx script).phase = .ready := rfl

theorem idle_frameInv (rx : List Byte) (script : List Inputs) : FrameInv (idle rx script) :=
  FrameInv.of_idle rfl rfl rfl (by rw [idle_phase]; decide) fun _ => ⟨rfl, rfl, rfl, rfl⟩

theorem idle_latchInv (rx : List Byte) (script : List Inputs) : LatchInv (idle rx script) :=
  LatchInv.of_idle rfl rfl rfl

/-- READY with `02 00 10 03 AA BB` taken and `CC` offered. -/
def inWrite : State := placeFrame (idle [] []) [0x02, 0x00, 0x10, 0x03, 0xAA, 0xBB, 0xCC]

/-- READY with `03 00` taken and `05` offered. -/
def inRead : State := placeFrame (idle [] []) [0x03, 0x00, 0x05]

/-- WSEQ with the first byte of three presented. -/
def inSequence (script : List Inputs) : State := writing Config.tc 0x0010 3 [0xAA, 0xBB, 0xCC] 0 script

/-- Waiting for reset. -/
def requested (script : List Inputs) : State := { idle [0x03] script with phase := .resetReq, pollArmed := true }

theorem inWrite_frameInv : FrameInv inWrite := by constructor <;> decide
theorem inWrite_latchInv : LatchInv inWrite := by constructor <;> decide
theorem inRead_frameInv : FrameInv inRead := by constructor <;> decide
theorem inRead_latchInv : LatchInv inRead := by constructor <;> decide
theorem inSequence_frameInv (script : List Inputs) : FrameInv (inSequence script) := by
  have h : FrameInv (inSequence []) := by constructor <;> decide
  exact h.congr rfl rfl rfl rfl rfl rfl rfl rfl rfl rfl rfl rfl

theorem witness_OpcodeByteDecodes : Config.tc.wellFormed = true ∧ (0xFF : Byte) ≠ Config.tc.opcReset ∧
    (0xFF : Byte) ≠ Config.tc.opcEepromWrite ∧ (0xFF : Byte) ≠ Config.tc.opcEepromRead ∧
    (0xFF : Byte) ≠ Config.tc.opcPollSonar := by decide

theorem witness_FourOpcodesAreCommands : Config.tc.wellFormed = true := by decide

theorem witness_DecodeOfEncode : Config.tc.wellFormed = true ∧
    ∀ i ∈ [Instr.eepromWrite 0xFFFF 29 (List.replicate 29 0x01), .eepromWrite 0x0000 0 [], .reset, .pollSonar,
      .eepromRead 0xFFFF, .unrecognized 0xFF], i.wellFormed Config.tc = true := by decide

theorem witness_EncodeOfDecode : Config.tc.wellFormed = true ∧
    decode Config.tc [0x02, 0xFF, 0xFE, 0x02, 0x01, 0x02, 0x04] = .frame (.eepromWrite 0xFFFE 2 [0x01, 0x02]) [0x04] := by
  decide

theorem witness_OverlongWriteNeverCompletes : Config.tc.wellFormed = true ∧ 30 ≤ (30 : Byte).toNat ∧
    decode Config.tc ([0x02, 0x00, 0x20, 30] ++ List.replicate 29 0) = .needMore ∧
    decode Config.tc ([0x02, 0x00, 0x20, 30] ++ List.replicate 30 0) = .paramOverflow [] := by decide

theorem witness_ReadAnswersStoredByte :
    (0xFFFF : Word).toNat < (idle [] []).cfg.storeSize ∧ (511 : Word).toNat < (s0 small [] [] []).cfg.storeSize := by decide

theorem witness_HexDigitCodes : hexDigit 9 = 0x39 ∧ hexDigit 10 = 0x41 := by decide

theorem witness_ReadOutOfRangeFaults : (s0 small [] [] []).cfg.storeSize ≤ (512 : Word).toNat := by decide

theorem witness_WriteStartsSequence :
    (Instr.eepromWrite 0xFFFF 29 (List.replicate 29 0x01)).wellFormed inWrite.cfg = true ∧
    (Instr.eepromWrite 0x0000 0 []).wellFormed inWrite.cfg = true := by decide

theorem witness_OpcodeOnlyCommandsFrame :
    (∃ t, exec .reset inWrite = .next t) ∧ (∃ t, exec .pollSonar inWrite = .next t) ∧
      ∃ t, exec (.unrecognized 0xFF) inWrite = .next t := ⟨⟨_, rfl⟩, ⟨_, rfl⟩, ⟨_, rfl⟩⟩

theorem witness_ReadFrame :
    (∃ t, exec (.eepromRead 0xFFFF) inRead = .next t) ∧ ∃ t, exec (.eepromRead 512) (s0 small [] [] []) = .next t :=
  ⟨exec_answers _ _, exec_answers _ _⟩

theorem witness_WriteStartFrame : ∃ t, exec (.eepromWrite 0xFFFF 1 [7]) inWrite = .next t ∧ 3 + [(7 : Byte)].length ≤ 31 :=
  ⟨_, rfl, by decide⟩

theorem witness_LiveStateSteps : Live State.reset := ⟨rfl, rfl⟩

theorem witness_IllFormedConfigurationRefused : (s0 equalOpcodes [] [] []).cfg.wellFormed = false := by decide

theorem witness_FaultedTakesNoStep : ∃ s : State, s.cfg.wellFormed = true ∧ s.faulted = some .storeRange :=
  ⟨raiseFault (idle [] []) .storeRange, rfl, rfl⟩

theorem witness_DecodedFrameRuns : Live inWrite ∧ FrameInv inWrite ∧ LatchInv inWrite ∧ inWrite.phase = .ready ∧
    (nextInputs inWrite).rst = false ∧ stepByte inWrite = some 0xCC ∧
    decode inWrite.cfg (frameBytes inWrite ++ [0xCC]) = .frame (.eepromWrite 0x0010 3 [0xAA, 0xBB, 0xCC]) [] :=
  ⟨⟨rfl, rfl⟩, inWrite_frameInv, inWrite_latchInv, by decide⟩

theorem witness_UnfinishedFrameGoesOn : ∃ s : State, Live s ∧ FrameInv s ∧ LatchInv s ∧ s.phase = .ready ∧
    (nextInputs s).rst = false ∧ stepByte s = some 0x03 ∧ decode s.cfg (frameBytes s ++ [0x03]) = .needMore :=
  ⟨idle [0x03] [offerInputs], idle_live _ _, idle_frameInv _ _, idle_latchInv _ _, by decide⟩

theorem witness_OpcodeByteStartsFrame : ∀ b ∈ [0x01, 0x02, 0x03, 0x04, 0xFF], Live (idle [b] [offerInputs]) ∧
    ReadyIdle (idle [b] [offerInputs]) ∧ (nextInputs (idle [b] [offerInputs])).rst = false ∧
    stepByte (idle [b] [offerInputs]) = some b :=
  fun _ _ => ⟨idle_live _ _, ⟨rfl, rfl⟩, rfl, rfl⟩

theorem witness_ParameterByteIsData : ∃ t, FrameInv inRead ∧ LatchInv inRead ∧ inRead.phase = .ready ∧
    inRead.inProgress = true ∧ inRead.parameterCount < capacity ∧ (nextInputs inRead).rst = false ∧
    stepByte inRead = some 0x05 ∧ step inRead = .next t := by
  obtain ⟨t, ht⟩ := exists_next_only (o := step inRead) (by decide)
  exact ⟨t, inRead_frameInv, inRead_latchInv, by decide, by decide, by decide, by decide, by decide, ht⟩

theorem witness_FullBufferRejects : ∃ s : State, Live s ∧ s.phase = .ready ∧ s.inProgress = true ∧
    s.parameterCount = capacity ∧ (nextInputs s).rst = false ∧ stepByte s = some 0x1D :=
  ⟨placeFrame (idle [] []) ([0x02, 0x00, 0x20, 0x1E] ++ List.replicate 30 0x1D), ⟨rfl, rfl⟩, by decide⟩

theorem witness_NoByteNoChange :
    (∃ s : State, Live s ∧ s.phase = .ready ∧ (nextInputs s).rst = false ∧ stepByte s = none ∧ s.rx = []) ∧
    ∃ s : State, Live s ∧ s.phase = .ready ∧ (nextInputs s).rst = false ∧ stepByte s = none ∧ s.rx ≠ [] :=
  ⟨⟨idle [] [offerInputs], idle_live _ _, by decide⟩, ⟨idle [0x04] [quietInputs], idle_live _ _, by decide⟩⟩

theorem witness_BytesAreTakenOnceInOrder :
    (∃ s t : State, (nextInputs s).rst = false ∧ step s = .next t ∧ t.rxTake = true) ∧
    ∃ s t : State, (nextInputs s).rst = false ∧ step s = .next t ∧ t.rxTake = false := by
  obtain ⟨t, ht, hp⟩ := exists_next (o := step (idle [0x04] [offerInputs])) (p := State.rxTake) (by decide)
  obtain ⟨u, hu, hq⟩ := exists_next (o := step (inSequence [ackInputs])) (p := fun t => !t.rxTake) (by decide)
  exact ⟨⟨_, t, by decide, ht, hp⟩, ⟨_, u, by decide, hu, by simpa using hq⟩⟩

theorem witness_ResetLeavesResetState :
    (Live (inSequence [resetInputs]) ∧ (nextInputs (inSequence [resetInputs])).rst = true ∧
      Memory.wf (inSequence [resetInputs]).mem = true ∧ writeInFlight (inSequence [resetInputs]) = true) ∧
    Live (idle [0x04] [resetInputs]) ∧ (nextInputs (idle [0x04] [resetInputs])).rst = true ∧
      writeInFlight (idle [0x04] [resetInputs]) = false :=
  ⟨⟨⟨rfl, rfl⟩, by decide⟩, ⟨rfl, rfl⟩, by decide⟩

theorem witness_ResetPreemptsInputs : ∃ i j : Inputs, i ≠ j ∧ i.rst = true ∧ j.rst = true ∧ i.resetByte = j.resetByte ∧
    i.rxAfterReset = j.rxAfterReset :=
  ⟨resetInputs, { resetInputs with stAck := false, pollClear := false, rxOffer := false, arrivals := [1] }, by decide⟩

theorem witness_InitStepRefreshes : ∃ s : State, Live s ∧ s.phase = .init ∧ (nextInputs s).rst = false ∧
    ∀ f, (configAddr s.cfg f).toNat < s.cfg.storeSize ∧ (configAddr s.cfg f + 1).toNat < s.cfg.storeSize :=
  ⟨State.start { Config.tc with storeSize := 8 } [] [] [offerInputs], ⟨rfl, rfl⟩, by decide, by decide, by
    intro f; cases f <;> decide⟩

theorem witness_InitStepFaultsOutOfRange : ∃ s : State, Live s ∧ s.phase = .init ∧ (nextInputs s).rst = false ∧
    ∃ f, s.cfg.storeSize ≤ (configAddr s.cfg f).toNat ∨ s.cfg.storeSize ≤ (configAddr s.cfg f + 1).toNat :=
  ⟨State.start { Config.tc with storeSize := 7 } [] [] [offerInputs], ⟨rfl, rfl⟩, by decide, by decide,
    .thresholdIR, .inr (by decide)⟩

theorem witness_WriteStepStoresOnAck : ∀ x ∈ [ackInputs, offerInputs],
    Live (inSequence [x]) ∧ FrameInv (inSequence [x]) ∧ (inSequence [x]).phase = .wseq ∧
      (nextInputs (inSequence [x])).rst = false ∧ (inSequence [x]).curOff.bits < (inSequence [x]).curCount.bits ∧
      (writeAddr (inSequence [x])).toNat < (inSequence [x]).cfg.storeSize ∧ Memory.wf (inSequence [x]).mem = true := by
  intro x hx
  refine ⟨⟨rfl, rfl⟩, inSequence_frameInv _, ?_⟩
  rcases List.mem_cons.1 hx with rfl | hx
  · decide
  · rw [List.mem_singleton.1 hx]; decide

theorem witness_WriteStepFaultsOutOfRange : ∃ s : State, Live s ∧ FrameInv s ∧ s.phase = .wseq ∧
    (nextInputs s).rst = false ∧ s.curOff.bits < s.curCount.bits ∧ s.cfg.storeSize ≤ (writeAddr s).toNat :=
  ⟨writing small 0x01FF 2 [0xAB, 0xCD] 1 [ackInputs], ⟨rfl, rfl⟩, by constructor <;> decide, by decide⟩

theorem witness_FinishingStepRefreshes :
    (∃ s : State, Live s ∧ s.phase = .wseq ∧ (nextInputs s).rst = false ∧ s.curOff.bits = s.curCount.bits ∧
      configWords s = some (0xFFFF, 0xFFFF, 0xFFFF, 0xFFFF)) ∧
    ∃ s : State, Live s ∧ s.phase = .wseq ∧ (nextInputs s).rst = false ∧ s.curOff.bits = s.curCount.bits ∧
      configWords s = none :=
  ⟨⟨writing Config.tc 0x1234 0 [] 0 [offerInputs], ⟨rfl, rfl⟩, by decide⟩,
    ⟨{ writing Config.tc 0x1234 0 [] 0 [offerInputs] with cfg := tiny }, ⟨rfl, rfl⟩, by decide⟩⟩

theorem witness_WriteWaitsForAck : ∃ (s : State) (is rest : List Inputs), Live s ∧ FrameInv s ∧ stWreq s = true ∧
    (writeAddr s).toNat < s.cfg.storeSize ∧ s.script = is ++ rest ∧ (∀ i ∈ is, i.rst = false ∧ i.stAck = false) ∧
    is.length = 2 :=
  ⟨inSequence [offerInputs, offerInputs, ackInputs], [offerInputs, offerInputs], [ackInputs], ⟨rfl, rfl⟩,
    inSequence_frameInv _, by decide, by decide, rfl, by decide, rfl⟩

theorem witness_ResetRequestWaitsForReset : ∃ (s : State) (is rest : List Inputs), Live s ∧ s.phase = .resetReq ∧
    s.script = is ++ rest ∧ (∀ i ∈ is, i.rst = false) ∧ is.length = 2 :=
  ⟨requested [ackInputs, offerInputs, resetInputs], [ackInputs, offerInputs], [resetInputs], ⟨rfl, rfl⟩, rfl, rfl,
    by decide, rfl⟩

theorem witness_WriteFrameWholeEffect : ∃ (s u : State) (is rest : List Inputs), Live s ∧ FrameInv s ∧
    s.phase = .ready ∧ Memory.wf s.mem = true ∧ (Instr.eepromWrite 0xFFFE 4 [1, 2, 3, 4]).wellFormed s.cfg = true ∧
    exec (.eepromWrite 0xFFFE 4 [1, 2, 3, 4]) s = .next u ∧ s.script = is ++ rest ∧
    is.length = [(1 : Byte), 2, 3, 4].length + 1 ∧ (∀ i ∈ is, Acks i) ∧
    (∀ k, k < [(1 : Byte), 2, 3, 4].length → (0xFFFE + BitVec.ofNat 16 k : Word).toNat < s.cfg.storeSize) ∧
    ∀ f, (configAddr s.cfg f).toNat < s.cfg.storeSize ∧ (configAddr s.cfg f + 1).toNat < s.cfg.storeSize :=
  ⟨idle [] (List.replicate 5 ackInputs), _, List.replicate 5 ackInputs, [], idle_live _ _, idle_frameInv _ _, rfl,
    by decide, by decide, rfl, rfl, rfl, acks_of, by decide, by intro f; cases f <;> decide⟩

theorem witness_FrameOnRxRunsItsCommand : ∀ i ∈ [Instr.reset, .eepromWrite 0xFFFE 3 [0x01, 0x02, 0x03], .eepromRead 0xFFFF,
    .pollSonar, .unrecognized 0xFF], ∃ (s : State) (tail : List Byte) (is rest : List Inputs), Live s ∧ FrameInv s ∧
      ReadyIdle s ∧ i.wellFormed s.cfg = true ∧ s.rx = encode s.cfg i ++ tail ∧ s.script = is ++ rest ∧
      is.length = i.frameLength ∧ ∀ x ∈ is, Offers x := by
  intro i hi
  have hw : ∀ i ∈ [Instr.reset, .eepromWrite 0xFFFE 3 [0x01, 0x02, 0x03], .eepromRead 0xFFFF, .pollSonar,
      .unrecognized 0xFF], i.wellFormed Config.tc = true := by decide
  exact ⟨idle (encode Config.tc i ++ [0x04]) (List.replicate i.frameLength offerInputs), [0x04],
    List.replicate i.frameLength offerInputs, [], idle_live _ _, idle_frameInv _ _, ⟨rfl, rfl⟩, hw i hi, rfl,
    (List.append_nil _).symm, List.length_replicate, offers_of ⟨rfl, rfl, rfl, rfl⟩⟩

theorem witness_OverlongWriteFrameLeavesNothing : ∃ (s : State) (ds tail : List Byte) (is rest : List Inputs), Live s ∧
    FrameInv s ∧ ReadyIdle s ∧ 30 ≤ (30 : Byte).toNat ∧ ds.length = 30 ∧
    s.rx = s.cfg.opcEepromWrite :: 0x00 :: 0x20 :: 30 :: ds ++ tail ∧ s.script = is ++ rest ∧ is.length = 34 ∧
    ∀ x ∈ is, Offers x :=
  ⟨idle (0x02 :: 0x00 :: 0x20 :: 30 :: List.replicate 30 7 ++ [0x04]) (List.replicate 34 offerInputs),
    List.replicate 30 7, [0x04], List.replicate 34 offerInputs, [], idle_live _ _, idle_frameInv _ _, ⟨rfl, rfl⟩,
    by decide, rfl, rfl, rfl, rfl, offers_of ⟨rfl, rfl, rfl, rfl⟩⟩

theorem witness_SetConfigSetsItsField : ∀ f, ∃ (s u : State) (is rest : List Inputs), Live s ∧ FrameInv s ∧
    s.phase = .ready ∧ Memory.wf s.mem = true ∧
    exec (.eepromWrite (configAddr s.cfg f) 2 [hiByte 0x01F4, loByte 0x01F4]) s = .next u ∧ s.script = is ++ rest ∧
    is.length = 3 ∧ (∀ i ∈ is, Acks i) ∧
    ∀ g, (configAddr s.cfg g).toNat < s.cfg.storeSize ∧ (configAddr s.cfg g + 1).toNat < s.cfg.storeSize := by
  intro f
  exact ⟨idle [] (List.replicate 3 ackInputs), _, List.replicate 3 ackInputs, [], idle_live _ _, idle_frameInv _ _, rfl,
    by decide, rfl, rfl, rfl, acks_of, by intro g; cases g <;> decide⟩

theorem witness_FrameInvariantsKept : ∃ t, FrameInv inWrite ∧ step inWrite = .next t ∧ t.faulted = none := by
  obtain ⟨t, ht, hp⟩ := exists_next (o := step inWrite) (p := fun t => t.faulted = none) (by decide)
  exact ⟨t, inWrite_frameInv, ht, by simpa using hp⟩

theorem witness_LatchInvariantsKept : ∃ t, FrameInv inWrite ∧ LatchInv inWrite ∧ step inWrite = .next t ∧
    t.faulted = none := by
  obtain ⟨t, ht, hp⟩ := exists_next (o := step inWrite) (p := fun t => t.faulted = none) (by decide)
  exact ⟨t, inWrite_frameInv, inWrite_latchInv, ht, by simpa using hp⟩

theorem witness_StoreInvariantKept : ∃ t, MemInv (inSequence [ackInputs]) ∧ step (inSequence [ackInputs]) = .next t ∧
    t.mem = [(0x10, 0xAA)] := by
  obtain ⟨t, ht, hp⟩ := exists_next (o := step (inSequence [ackInputs])) (p := fun t => t.mem = [(0x10, 0xAA)]) (by decide)
  exact ⟨t, ⟨by decide, by decide⟩, ht, by simpa using hp⟩

theorem witness_CacheCoherenceKept : ∃ s t : State, CacheInv s ∧ step s = .next t ∧ t.faulted = none ∧
    t.phase = .ready := by
  obtain ⟨t, ht, hp⟩ := exists_next (o := step (State.start Config.tc [(0, 1)] [] [offerInputs]))
    (p := fun t => t.faulted = none ∧ t.phase = .ready) (by decide)
  obtain ⟨h1, h2⟩ : t.faulted = none ∧ t.phase = .ready := by simpa using hp
  exact ⟨_, t, by intro h; exact absurd h (by decide), ht, h1, h2⟩

theorem witness_StartMeetsInvariants : Memory.wf [(0, 0x01), (511, 0x02)] = true ∧
    ∀ cell ∈ [((0 : Nat), (0x01 : Byte)), (511, 0x02)], cell.1 < small.storeSize := by decide

theorem witness_UnreachableIsNeverRaised : ∃ t, FrameInv inWrite ∧ LatchInv inWrite ∧ step inWrite = .next t := by
  obtain ⟨t, ht⟩ := exists_next_only (o := step inWrite) (by decide)
  exact ⟨t, inWrite_frameInv, inWrite_latchInv, ht⟩

theorem witness_FullStoreNeverFaults : ∃ t, FrameInv inRead ∧ LatchInv inRead ∧ FullStore inRead ∧
    step inRead = .next t := by
  obtain ⟨t, ht⟩ := exists_next_only (o := step inRead) (by decide)
  exact ⟨t, inRead_frameInv, inRead_latchInv, rfl, ht⟩

theorem witness_UnheldRegistersAreNeverRead : ∃ s : State, FrameInv s ∧ LatchInv s ∧ forgetUnheld s ≠ s :=
  ⟨{ idle [] [] with curCount := { hasValue := false, bits := 7 } }, by constructor <;> decide, by constructor <;> decide,
    fun h => absurd (congrArg (fun s : State => s.curCount.bits) h) (by decide)⟩

theorem witness_StoreChangesOnlyByTheSequencer : ∀ x ∈ [ackInputs, resetInputs], ∃ t,
    step (inSequence [x]) = .next t ∧ t.mem.read 0x10 ≠ (inSequence [x]).mem.read 0x10 := by
  intro x hx
  have h : nextIs (step (inSequence [x])) (fun t => t.mem.read 0x10 ≠ (inSequence [x]).mem.read 0x10) = true := by
    rcases List.mem_cons.1 hx with rfl | hx
    · decide
    · rw [List.mem_singleton.1 hx]; decide
  obtain ⟨t, ht, hp⟩ := exists_next h
  exact ⟨t, ht, by simpa using hp⟩

theorem witness_TxGrowsOnlyByReads : ∃ t, step inRead = .next t ∧ t.tx ≠ inRead.tx := by
  obtain ⟨t, ht, hp⟩ := exists_next (o := step inRead) (p := fun t => t.tx ≠ inRead.tx) (by decide)
  exact ⟨t, ht, by simpa using hp⟩

theorem witness_CacheChangesOnlyByRefresh : ∃ s t : State, step s = .next t ∧ (nextInputs s).rst = false ∧
    t.switchThreshold ≠ s.switchThreshold := by
  obtain ⟨t, ht, hp⟩ := exists_next (o := step (State.start Config.tc [] [] [offerInputs]))
    (p := fun t => t.switchThreshold ≠ (State.start Config.tc [] [] [offerInputs]).switchThreshold) (by decide)
  exact ⟨_, t, ht, by decide, by simpa using hp⟩

theorem witness_PollFlagRule :
    (∃ s t : State, (nextInputs s).rst = false ∧ step s = .next t ∧ t.faulted = none ∧ (nextInputs s).pollClear = true ∧
      t.pollArmed = true) ∧
    ∃ s t : State, (nextInputs s).rst = false ∧ step s = .next t ∧ t.faulted = none ∧ s.pollArmed = true ∧
      t.pollArmed = false := by
  obtain ⟨t, ht, hp⟩ := exists_next (o := step (idle [0x04] [{ offerInputs with pollClear := true }]))
    (p := fun t => t.faulted = none ∧ t.pollArmed = true) (by decide)
  obtain ⟨u, hu, hq⟩ := exists_next (o := step (requested [{ offerInputs with pollClear := true }]))
    (p := fun t => t.faulted = none ∧ t.pollArmed = false) (by decide)
  obtain ⟨h1, h2⟩ : t.faulted = none ∧ t.pollArmed = true := by simpa using hp
  obtain ⟨h3, h4⟩ : u.faulted = none ∧ u.pollArmed = false := by simpa using hq
  exact ⟨⟨_, t, by decide, ht, h1, by decide, h2⟩, ⟨_, u, by decide, hu, h3, rfl, h4⟩⟩

theorem witness_ConfigurationIsFixed : ∃ t, step inWrite = .next t := exists_next_only (by decide)

theorem witness_RequestHeldUntilAcknowledged : ∃ s t : State, FrameInv s ∧ stWreq s = true ∧
    (nextInputs s).rst = false ∧ (nextInputs s).stAck = false ∧ step s = .next t := by
  obtain ⟨t, ht⟩ := exists_next_only (o := step (inSequence [offerInputs])) (by decide)
  exact ⟨_, t, inSequence_frameInv _, by decide, by decide, by decide, ht⟩

/-- A waiting write, an acknowledged one, a reset during one, and one out of range. -/
theorem witness_PresentedWriteIsRecorded :
    (∀ x ∈ [offerInputs, ackInputs, resetInputs], FrameInv (inSequence [x]) ∧ ∃ t, step (inSequence [x]) = .next t) ∧
    presentsWrite offerInputs (inSequence [offerInputs]) = true ∧
    stWaddr (inSequence [offerInputs]) = some 0x0010 ∧ stWdata (inSequence [offerInputs]) = some 0xAA ∧
    FrameInv (writing small 0x01FF 2 [0xAB, 0xCD] 1 [ackInputs]) ∧
    ∃ t, step (writing small 0x01FF 2 [0xAB, 0xCD] 1 [ackInputs]) = .next t := by
  refine ⟨fun x hx => ⟨inSequence_frameInv _, exists_next_only ?_⟩, by decide, by decide, by decide,
    by constructor <;> decide, exists_next_only (by decide)⟩
  rcases List.mem_cons.1 hx with rfl | hx
  · decide
  · rcases List.mem_cons.1 hx with rfl | hx
    · decide
    · rw [List.mem_singleton.1 hx]; decide

theorem witness_FeedOutcomeOfCommand : ∃ s : State, s.rxTake = true ∧
    (∀ e ∈ s.events, e.dispatchOutcome = none) ∧ s.faulted = none ∧
    ∀ i ∈ [Instr.reset, .eepromWrite 0xFFFF 1 [7], .eepromRead 0xFFFF, .pollSonar, .unrecognized 0xFF],
      ∃ t, exec i s = .next t ∧ t.faulted = s.faulted := by
  refine ⟨takeHead (opcodeByte 0x04 (idle [0x04] [])), rfl, by decide, rfl, ?_⟩
  intro i hi
  have h : ∀ i ∈ [Instr.reset, .eepromWrite 0xFFFF 1 [7], .eepromRead 0xFFFF, .pollSonar, .unrecognized 0xFF],
      nextIs (exec i (takeHead (opcodeByte 0x04 (idle [0x04] [])))) (fun t => t.faulted = none) = true := by decide
  obtain ⟨t, ht, hp⟩ := exists_next (h i hi)
  exact ⟨t, ht, of_decide_eq_true hp⟩

theorem witness_EmptyScriptDrawsFreely : ∃ s t : State, s.script = [] ∧
    step { s with script := [Config.freeInputs s.draws] } = .next t := by
  refine ⟨requested [], ?_⟩
  cases hr : (Config.freeInputs 0).rst with
  | true => exact ⟨_, rfl, by rw [step_of_live ⟨rfl, rfl⟩]; exact stepWith_rst _ hr⟩
  | false => exact ⟨_, rfl, by rw [step_of_live ⟨rfl, rfl⟩]; refine (stepWith_noRst _ hr).trans ?_; simp only [phaseStep, settle_phase]; rfl⟩

theorem witness_ThirtyThreeBytesResynchronise : ∃ (s : State) (is rest : List Inputs), Live s ∧ FrameInv s ∧
    LatchInv s ∧ FullStore s ∧ s.phase = .ready ∧ decodeClass s.cfg 0xFF = .unrecognized ∧ 30 ≤ (0xFF : Byte).toNat ∧
    s.rx = List.replicate 33 0xFF ∧ s.script = is ++ rest ∧ is.length = 63 ∧ s.inProgress = true ∧
    ∀ i ∈ is, Offers i ∧ i.stAck = true := by
  refine ⟨{ inRead with rx := List.replicate 33 0xFF, script := List.replicate 63 ackInputs }, List.replicate 63 ackInputs,
    [], ⟨rfl, rfl⟩, ?_, ?_, rfl, rfl, by decide, by decide, rfl, rfl, rfl, rfl, ?_⟩
  · constructor <;> decide
  · constructor <;> decide
  · intro i hi
    rw [List.eq_of_mem_replicate hi]
    exact ⟨⟨rfl, rfl, rfl, rfl⟩, rfl⟩

end Sys2Proof.Tests
end

section
/-! SUPPORT. What the step's two larger branches leave of the configuration (spec/00_scope.md R5). -/
namespace Sys2Proof.Machine

@[simp] theorem initStep_cfg (s : State) : (initStep s).cfg = s.cfg := by
  rcases initStep_cases s with ⟨_, h⟩ | ⟨_, _, _, _, _, h⟩ <;> rw [h] <;> simp

@[simp] theorem finishWriteSequence_cfg (s : State) : (finishWriteSequence s).cfg = s.cfg := by
  rcases finishWriteSequence_cases s with ⟨_, h⟩ | ⟨_, _, _, _, _, h⟩ <;> rw [h] <;> simp

@[simp] theorem writeStep_cfg (ack : Bool) (s : State) : (writeStep ack s).cfg = s.cfg := by
  rcases writeStep_cases ack s with ⟨_, h⟩ | ⟨_, h⟩ | ⟨_, _, _, h⟩ | ⟨_, _, _, h⟩ <;> rw [h] <;> simp

@[simp] theorem seqStep_cfg (ack : Bool) (s : State) : (seqStep ack s).cfg = s.cfg := by
  rcases seqStep_cases ack s with ⟨_, h⟩ | ⟨_, h⟩ | ⟨_, h⟩ <;> rw [h] <;> simp

theorem stepWith_cfg {i : Inputs} {s t : State} (h : stepWith i s = .next t) : t.cfg = s.cfg := by
  rcases stepWith_next h with ⟨_, rfl⟩ | ⟨_, _, rfl⟩ | ⟨_, _, _, rfl⟩ | ⟨_, _, b, _, hfeed⟩ | ⟨_, _, rfl⟩ | ⟨_, _, rfl⟩
  case inr.inr.inr.inl => simpa using (feed_keeps hfeed).1
  all_goals simp

/-- Settles O52: each branch of the step leaves the parameters alone. -/
theorem configurationIsFixed : Obligations.ConfigurationIsFixed := by
  intro s t h
  simpa using stepWith_cfg (step_next h).2

/-- Settles O18: the configuration is looked at before anything else of the state. -/
theorem illFormedConfigurationRefused : Obligations.IllFormedConfigurationRefused := by
  intro s h
  simp [step, tick, h]

end Sys2Proof.Machine
end

section
/-! SUPPORT. The latch invariants (spec/10_state.md R23, R25 to R28) through the byte intake, the evaluation and the
sequencer; the step keeps them (O41). -/
namespace Sys2Proof.Machine

/-- A register that has a value holds its bits. -/
theorem Reg.eq_held {α : Type} {r : Reg α} {v : α} (hv : r.hasValue = true) (hb : r.bits = v) : r = .held v := by
  cases r
  simp_all [Reg.held]

/-- Out of READY the latch invariants ask nothing of the write offset but that it holds a value (R28). -/
theorem LatchInv.congr_offset {s t : State} (h : LatchInv s) (hcfg : t.cfg = s.cfg) (hphase : t.phase ≠ .ready)
    (hprog : t.inProgress = s.inProgress) (hop : t.currentOpcode = s.currentOpcode)
    (hcount : t.parameterCount = s.parameterCount) (hvalid : t.curValid = s.curValid)
    (hn : t.curCount = s.curCount) (ha : t.curAddr = s.curAddr) (hbuf : t.buf = s.buf)
    (hoff : s.curOff.hasValue = true → t.curOff.hasValue = true) : LatchInv t where
  opcodeHeld := by simpa only [hprog, hop] using h.opcodeHeld
  paramsHeld := by simpa only [hcount, hbuf] using h.paramsHeld
  cursorHeld := by
    intro hv
    obtain ⟨h1, h2, h3⟩ := h.cursorHeld (hvalid ▸ hv)
    exact ⟨hn ▸ h1, ha ▸ h2, hoff h3⟩
  cursorOperands := by
    simpa only [hvalid, hn, ha, operandCount, operandAddress, hbuf] using h.cursorOperands
  readyOffset := fun hp => absurd hp hphase
  captured := by simpa only [hprog, hcount, hvalid, frameClass_congr hcfg hop] using h.captured
  inFlightClass := by simpa only [hprog, frameClass_congr hcfg hop] using h.inFlightClass

/-! ### The byte intake -/

/-- R114: an opcode starts a frame with no parameters and no cursor. -/
theorem opcodeByte_latchInv {b : Byte} {s : State} (hv : s.curValid = false)
    (hclass : frameClass (opcodeByte b s) = .eepromWrite ∨ frameClass (opcodeByte b s) = .eepromRead) :
    LatchInv (opcodeByte b s) := by
  constructor <;> simp_all

/-- R117: the parameter appended holds a value, and so do those before it. -/
theorem appendParam_paramsHeld {b : Byte} {s : State} (h : LatchInv s) (k : Nat) (hk : k < capacity)
    (hlt : k < s.parameterCount + 1) : (appendParam b s).buf[k].hasValue = true := by
  simp only [appendParam_buf, Vector.getElem_setIfInBounds]
  split
  · rfl
  · exact h.paramsHeld k hk (by omega)

/-- R117: the operands of a frame are not written again. -/
theorem appendParam_operands {b : Byte} {s : State} (h : 3 ≤ s.parameterCount) :
    operandCount (appendParam b s) = operandCount s ∧ operandAddress (appendParam b s) = operandAddress s := by
  have hne : ∀ k (hk : k < capacity), k < 3 → (appendParam b s).buf[k] = s.buf[k] := fun k hk hk3 => by
    simp only [appendParam_buf, Vector.getElem_setIfInBounds]
    rw [if_neg (by omega)]
  simp only [operandCount, operandAddress, hne 0 (by decide) (by decide), hne 1 (by decide) (by decide),
    hne 2 (by decide) (by decide), and_self]

@[simp] theorem frameClass_appendParam (b : Byte) (s : State) : frameClass (appendParam b s) = frameClass s := rfl

/-- R142: a captured cursor is the frame's address and count, at offset 0. -/
theorem setCursor_latchInv {b : Byte} {s : State} (h : LatchInv s) (hprog : s.inProgress = true) :
    LatchInv (setCursor (appendParam b s) (operandAddress (appendParam b s)) (operandCount (appendParam b s))) where
  opcodeHeld := h.opcodeHeld
  paramsHeld := appendParam_paramsHeld h
  cursorHeld := fun _ => ⟨rfl, rfl, rfl⟩
  cursorOperands := fun _ => ⟨rfl, rfl⟩
  readyOffset := fun _ _ => rfl
  captured := fun _ _ _ => rfl
  inFlightClass := fun _ => h.inFlightClass hprog

/-- A parameter that is not the count byte of an EEPROM_WRITE leaves the cursor as it is. -/
theorem appendParam_latchInv {b : Byte} {s : State} (hf : FrameInv s) (h : LatchInv s)
    (hnot : ¬(frameClass s = .eepromWrite ∧ s.parameterCount + 1 = 3)) : LatchInv (appendParam b s) where
  opcodeHeld := h.opcodeHeld
  paramsHeld := appendParam_paramsHeld h
  cursorHeld := h.cursorHeld
  cursorOperands := fun hv => by
    obtain ⟨_, _, hcount⟩ := hf.cursor hv
    obtain ⟨hn, ha⟩ := appendParam_operands (b := b) hcount
    rw [hn, ha]
    exact h.cursorOperands hv
  readyOffset := h.readyOffset
  captured := fun hprog hclass hcount => by
    have hclass : frameClass s = .eepromWrite := hclass
    have hcount : 3 ≤ s.parameterCount + 1 := hcount
    exact h.captured hprog hclass (by have : s.parameterCount + 1 ≠ 3 := fun he => hnot ⟨hclass, he⟩; omega)
  inFlightClass := h.inFlightClass

/-- R91: a byte taken in keeps the latch invariants, if the frame it leaves in flight is one that can go on. -/
theorem intake_latchInv {b : Byte} {s : State} (hf : FrameInv s) (h : LatchInv s)
    (hclass : frameClass (intake b s) = .eepromWrite ∨ frameClass (intake b s) = .eepromRead) :
    LatchInv (intake b s) := by
  cases hprog : s.inProgress with
  | false =>
    rw [intake_idle hprog] at hclass ⊢
    exact opcodeByte_latchInv (hf.idle hprog).2 hclass
  | true =>
    rw [intake_busy hprog]
    rcases captureCursor_cases (appendParam b s) with ⟨_, _, hcap⟩ | ⟨hnot, hcap⟩
    · rw [hcap]
      exact setCursor_latchInv h hprog
    · rw [hcap]
      exact appendParam_latchInv hf h hnot

/-- R24: a byte is taken in only while the buffer has room for it. -/
theorem intake_countBound {b : Byte} {s : State} (h : s.inProgress = true → s.parameterCount < capacity) :
    (intake b s).parameterCount ≤ capacity := by
  cases hprog : s.inProgress with
  | false => simp [intake_idle hprog]
  | true => simpa [intake_busy hprog] using h hprog

/-! ### The evaluation -/

/-- R143, log 12: where the registers hold a complete frame, the sequencer starts on them as they are. -/
theorem execEepromWrite_of_latchInv {u : State} (hc : u.cfg.wellFormed = true) (h : LatchInv u)
    (hprog : u.inProgress = true) (hready : u.phase = .ready) (hbound : u.parameterCount ≤ capacity)
    (hclass : frameClass u = .eepromWrite) (hdone : writeComplete u = true) :
    exec (.eepromWrite u.curAddr.bits u.curCount.bits (operandData u u.curCount.bits)) u =
      .next (emit { u with phase := .wseq } (.writeStart u.curAddr.bits u.curCount.bits)) := by
  obtain ⟨h3, hcount⟩ : 3 ≤ u.parameterCount ∧ u.parameterCount = u.curCount.bits.toNat + 3 := by
    simpa [writeComplete] using hdone
  have hv : u.curValid = true := h.captured hprog hclass h3
  obtain ⟨hn, ha, hoff⟩ := h.cursorHeld hv
  obtain ⟨hnEq, haEq⟩ := h.cursorOperands hv
  have hop : u.currentOpcode = .held u.cfg.opcEepromWrite :=
    Reg.eq_held (h.opcodeHeld hprog) ((decodeClass_eepromWrite_iff hc).1 hclass)
  have hself := latchWrite_self hprog hop hcount hbound hv hn ha (Reg.eq_held hoff (h.readyOffset hready hv)) hnEq haEq
    h.paramsHeld
  simp only [exec, execEepromWrite, hself]

theorem exec_latchInv {i : Instr} {s t : State} (hi : ∀ a n d, i ≠ .eepromWrite a n d) (h : exec i s = .next t)
    (hf : t.faulted = none) : LatchInv t := by
  obtain ⟨h1, h2, h3⟩ := exec_ends hi h hf
  exact LatchInv.of_idle h1 h2 h3

/-- R119: the evaluation of a frame in flight keeps the latch invariants. A frame of another class than EEPROM_WRITE or
EEPROM_READ ends here, so its registers are not asked for. -/
theorem evaluate_latchInv {u t : State} (hc : u.cfg.wellFormed = true) (hprog : u.inProgress = true)
    (hready : u.phase = .ready) (hbound : u.parameterCount ≤ capacity)
    (hlatch : frameClass u = .eepromWrite ∨ frameClass u = .eepromRead → LatchInv u)
    (h : evaluate u = .next t) (hf : t.faulted = none) : LatchInv t := by
  rcases evaluate_next h with ⟨_, _, hx⟩ | ⟨_, _, hx⟩ | ⟨_, _, rfl⟩ | ⟨_, hx⟩ | ⟨hclass, _, rfl⟩ | ⟨_, _, hx⟩ |
    ⟨_, _, rfl⟩ | ⟨hclass, _, rfl⟩ | ⟨hclass, hdone, hx⟩
  · exact exec_latchInv (by simp) hx hf
  · exact exec_latchInv (by simp) hx hf
  · simp at hf
  · exact exec_latchInv (by simp) hx hf
  · exact hlatch (.inr hclass)
  · exact exec_latchInv (by simp) hx hf
  · exact LatchInv.of_idle rfl rfl rfl
  · exact hlatch (.inl hclass)
  · have hu := hlatch (.inl hclass)
    rw [execEepromWrite_of_latchInv hc hu hprog hready hbound hclass hdone] at hx
    cases hx
    exact hu.congr_offset rfl (by simp) rfl rfl rfl rfl rfl rfl rfl id

theorem feed_latchInv {b : Byte} {s t : State} (hc : s.cfg.wellFormed = true) (hready : s.phase = .ready)
    (hinv : FrameInv s) (hlatch : LatchInv s) (h : feed b s = .next t) (hf : t.faulted = none) : LatchInv t := by
  rcases feed_next h with ⟨_, _, rfl⟩ | ⟨hroom, he⟩
  · exact LatchInv.of_idle rfl rfl rfl
  · exact evaluate_latchInv (by simpa using hc) (by simp) (by simpa using hready) (intake_countBound hroom)
      (intake_latchInv hinv hlatch) he hf

/-! ### The other actions of a step -/

/-- R221: the INIT step runs with no frame in flight. -/
theorem initStep_latchInv {s : State} (hinv : FrameInv s) (hp : s.phase = .init)
    (hf : (initStep s).faulted = none) : LatchInv (initStep s) := by
  have hidle := hinv.stopped (.inl hp)
  obtain ⟨hcount, hv⟩ := hinv.idle hidle
  rcases initStep_cases s with ⟨_, h⟩ | ⟨_, _, _, _, _, h⟩ <;> rw [h] at hf ⊢
  · simp at hf
  · exact LatchInv.of_idle (by simpa using hidle) (by simpa using hcount) (by simpa using hv)

theorem finishWriteSequence_latchInv {s : State} (hf : (finishWriteSequence s).faulted = none) :
    LatchInv (finishWriteSequence s) := by
  rcases finishWriteSequence_cases s with ⟨_, h⟩ | ⟨_, _, _, _, _, h⟩ <;> rw [h] at hf ⊢
  · simp at hf
  · exact LatchInv.of_idle rfl rfl rfl

/-- R172: a write step moves the offset alone, or waits. -/
theorem writeStep_latchInv {ack : Bool} {s : State} (hlatch : LatchInv s) (hp : s.phase = .wseq)
    (hf : (writeStep ack s).faulted = none) : LatchInv (writeStep ack s) := by
  have hnot : s.phase ≠ .ready := by simp [hp]
  rcases writeStep_cases ack s with ⟨_, h⟩ | ⟨_, h⟩ | ⟨_, _, _, h⟩ | ⟨_, _, _, h⟩ <;> rw [h] at hf ⊢
  · simp at hf
  · simp at hf
  · exact hlatch.congr_offset rfl hnot rfl rfl rfl rfl rfl rfl rfl fun _ => rfl
  · exact hlatch.congr_offset rfl hnot rfl rfl rfl rfl rfl rfl rfl id

theorem seqStep_latchInv {ack : Bool} {s : State} (hlatch : LatchInv s) (hp : s.phase = .wseq)
    (hf : (seqStep ack s).faulted = none) : LatchInv (seqStep ack s) := by
  rcases seqStep_cases ack s with ⟨_, h⟩ | ⟨_, h⟩ | ⟨_, h⟩ <;> rw [h] at hf ⊢
  · exact finishWriteSequence_latchInv hf
  · simp at hf
  · exact writeStep_latchInv hlatch hp hf

/-- The state a step acts on meets the invariants of the state before it. -/
theorem settle_frameInv {i : Inputs} {s : State} (h : FrameInv s) : FrameInv (settle i s) := by
  apply h.congr <;> simp

theorem settle_latchInv {i : Inputs} {s : State} (h : LatchInv s) : LatchInv (settle i s) := by
  apply h.congr <;> simp

theorem stepWith_latchInv {i : Inputs} {s t : State} (hc : s.cfg.wellFormed = true) (hinv : FrameInv s)
    (hlatch : LatchInv s) (h : stepWith i s = .next t) (hf : t.faulted = none) : LatchInv t := by
  have hinv' := settle_frameInv (i := i) hinv
  have hlatch' := settle_latchInv (i := i) hlatch
  rcases stepWith_next h with ⟨_, rfl⟩ | ⟨_, hp, rfl⟩ | ⟨_, _, _, rfl⟩ | ⟨_, hp, b, _, hfeed⟩ | ⟨_, hp, rfl⟩ |
    ⟨_, _, rfl⟩
  · exact LatchInv.of_idle rfl rfl rfl
  · exact initStep_latchInv hinv' (by simpa using hp) hf
  · exact hlatch'
  · have hfr : FrameInv (takeHead (settle i s)) := by apply hinv'.congr <;> rfl
    have hla : LatchInv (takeHead (settle i s)) := by apply hlatch'.congr <;> rfl
    exact feed_latchInv (by simpa using hc) (by simpa using hp) hfr hla hfeed hf
  · exact seqStep_latchInv hlatch' (by simpa using hp) hf
  · exact hlatch'

/-- Settles O41: the invariants pass through each branch of the step, and a frame that cannot go on ends in the byte
that shows it. -/
theorem latchInvariantsKept : Obligations.LatchInvariantsKept := by
  intro s t hinv hlatch h hf
  obtain ⟨hlive, hw⟩ := step_next h
  have hfr : FrameInv (fresh s) := by apply hinv.congr <;> rfl
  have hla : LatchInv (fresh s) := by apply hlatch.congr <;> rfl
  exact stepWith_latchInv (s := fresh s) hlive.1 hfr hla hw hf

end Sys2Proof.Machine
end

section
/-! SUPPORT. A change of representation that no rule can see: the bits of registers without a value (log 3), or the
count of free draws (log 5). Every operation answers alike on the changed state, as long as what the operation reads of
the registers is unchanged; so does the step, from which O47 and O55 follow. -/
namespace Sys2Proof.Machine

/-- What such a change does to each register and to the draw counter. A register that holds a value is left as it is, and
so is one that a reset has just emptied. -/
structure RegisterMap where
  byte : Reg Byte → Reg Byte
  word : Reg Word → Reg Word
  draws : Nat → Nat
  byte_held : ∀ b, byte (.held b) = .held b
  word_held : ∀ w, word (.held w) = .held w
  byte_noValue : byte (.noValue 0) = .noValue 0
  word_noValue : word (.noValue 0) = .noValue 0

/-- The state with its registers and its draw counter changed. -/
def RegisterMap.apply (m : RegisterMap) (s : State) : State :=
  { s with
    currentOpcode := m.byte s.currentOpcode
    buf := s.buf.map m.byte
    curCount := m.byte s.curCount, curAddr := m.word s.curAddr, curOff := m.byte s.curOff
    switchThreshold := m.word s.switchThreshold, sonarDivider := m.word s.sonarDivider
    thresholdSonar := m.word s.thresholdSonar, thresholdIR := m.word s.thresholdIR
    draws := m.draws s.draws }

/-- A map on the next state of an outcome. -/
def mapNext (f : State → State) : Host.Outcome State Fault Refusal → Host.Outcome State Fault Refusal
  | .next t => .next (f t)
  | .fault k => .fault k
  | .refused r => .refused r

@[simp] theorem mapNext_next (f : State → State) (t : State) : mapNext f (.next t) = .next (f t) := rfl

variable {m : RegisterMap} {s : State}

/-! ### The operations that read no register -/

@[simp] theorem RegisterMap.apply_cfg : (m.apply s).cfg = s.cfg := rfl
@[simp] theorem RegisterMap.apply_phase : (m.apply s).phase = s.phase := rfl
@[simp] theorem RegisterMap.apply_inProgress : (m.apply s).inProgress = s.inProgress := rfl
@[simp] theorem RegisterMap.apply_parameterCount : (m.apply s).parameterCount = s.parameterCount := rfl
@[simp] theorem RegisterMap.apply_faulted : (m.apply s).faulted = s.faulted := rfl
@[simp] theorem memRead_apply (a : Word) : memRead (m.apply s) a = memRead s a := rfl
@[simp] theorem configWords_apply : configWords (m.apply s) = configWords s := configWords_congr rfl rfl
@[simp] theorem opcodeAlone_apply : opcodeAlone (m.apply s) = opcodeAlone s := rfl
@[simp] theorem readGoesOn_apply : readGoesOn (m.apply s) = readGoesOn s := rfl
@[simp] theorem readComplete_apply : readComplete (m.apply s) = readComplete s := rfl
@[simp] theorem bufferFull_apply : bufferFull (m.apply s) = bufferFull s := rfl
@[simp] theorem offered_apply (i : Inputs) : offered i (m.apply s) = offered i s := rfl

@[simp] theorem emit_apply (e : Event) : emit (m.apply s) e = m.apply (emit s e) := rfl
@[simp] theorem raiseFault_apply (k : Fault) : raiseFault (m.apply s) k = m.apply (raiseFault s k) := rfl
@[simp] theorem reject_apply (r : RejectReason) : reject (m.apply s) r = m.apply (reject s r) := rfl
@[simp] theorem takeHead_apply : takeHead (m.apply s) = m.apply (takeHead s) := rfl

@[simp] theorem settle_apply (i : Inputs) : settle i (m.apply s) = m.apply (settle i s) := by
  have hpoll (u : State) : pollClear (m.apply u) = m.apply (pollClear u) := by
    cases h : u.pollArmed <;> simp [pollClear, RegisterMap.apply, emit, h]
  unfold settle
  split
  · exact hpoll (arrive s i.arrivals)
  · rfl

@[simp] theorem memWrite_apply (a : Word) (v : Byte) : memWrite (m.apply s) a v = (memWrite s a v).map m.apply := by
  by_cases h : a.toNat < s.cfg.storeSize
  · simp only [memWrite, inStore, RegisterMap.apply_cfg, h]
    rfl
  · simp [memWrite, inStore, h]

/-! ### The operations that write registers -/

@[simp] theorem setCache_apply (w0 w1 w2 w3 : Word) :
    setCache (m.apply s) w0 w1 w2 w3 = m.apply (setCache s w0 w1 w2 w3) := by
  simp [setCache, RegisterMap.apply, m.word_held]

@[simp] theorem setCursor_apply (a : Word) (n : Byte) : setCursor (m.apply s) a n = m.apply (setCursor s a n) := by
  simp [setCursor, RegisterMap.apply, m.byte_held, m.word_held]

@[simp] theorem opcodeByte_apply (b : Byte) : opcodeByte b (m.apply s) = m.apply (opcodeByte b s) := by
  simp [opcodeByte, emit, RegisterMap.apply, m.byte_held]

theorem map_setIfInBounds_held (buf : Vector (Reg Byte) capacity) (k : Nat) (b : Byte) :
    (buf.map m.byte).setIfInBounds k (.held b) = (buf.setIfInBounds k (.held b)).map m.byte := by
  rw [Vector.map_setIfInBounds, m.byte_held]

@[simp] theorem appendParam_apply (b : Byte) : appendParam b (m.apply s) = m.apply (appendParam b s) := by
  simp [appendParam, emit, RegisterMap.apply, map_setIfInBounds_held]

theorem storeFrom_map (bs : List Byte) (buf : Vector (Reg Byte) capacity) (k : Nat) :
    storeFrom (buf.map m.byte) k bs = (storeFrom buf k bs).map m.byte := by
  induction bs generalizing buf k with
  | nil => rfl
  | cons b bs ih => simp only [storeFrom, map_setIfInBounds_held, ih]

@[simp] theorem latchWrite_apply (a : Word) (n : Byte) (d : List Byte) :
    latchWrite a n d (m.apply s) = m.apply (latchWrite a n d s) := by
  simp [latchWrite, setCursor, RegisterMap.apply, storeFrom_map, m.byte_held, m.word_held]

theorem resetStep_apply {i : Inputs} (h : resetMemory i (m.apply s) = resetMemory i s) :
    resetStep i (m.apply s) = m.apply (resetStep i s) := by
  have hb : m.byte (.noValue 0) = .noValue 0 := m.byte_noValue
  have hw : m.word (.noValue 0) = .noValue 0 := m.word_noValue
  simp only [resetStep, h]
  simp only [emit, RegisterMap.apply, Vector.map_replicate, hb, hw]

/-- Refresh reads the store alone. -/
@[simp] theorem refresh_apply : refresh (m.apply s) = (refresh s).map m.apply := by
  simp only [refresh, configWords_apply]
  cases configWords s <;> simp

@[simp] theorem initStep_apply : initStep (m.apply s) = m.apply (initStep s) := by
  simp only [initStep, refresh_apply]
  cases refresh s <;> rfl

/-- A command's completion reads its operands from the term and the store, not from the registers. -/
theorem exec_apply (i : Instr) : exec i (m.apply s) = mapNext m.apply (exec i s) := by
  cases i with
  | reset => rfl
  | eepromWrite a n d =>
    simp only [exec, execEepromWrite, latchWrite_apply]
    rfl
  | eepromRead a =>
    simp only [exec, execEepromRead, memRead_apply]
    cases memRead s a <;> rfl
  | pollSonar => rfl
  | unrecognized b => rfl

/-! ### What is read of the frame in flight -/

/-- `s'` reads like `s` in the registers that the accumulator's rules read: the opcode of a frame in flight, the
parameters taken, and the address and count of an EEPROM_WRITE whose cursor has been captured. -/
structure FrameReadsAlike (s s' : State) : Prop where
  frameClass : s.inProgress = true → frameClass s' = frameClass s
  params : ∀ k (h : k < capacity), k < s.parameterCount → s'.buf[k].bits = s.buf[k].bits
  cursor : s.inProgress = true → Machine.frameClass s = .eepromWrite → 3 ≤ s.parameterCount →
    s'.curCount.bits = s.curCount.bits ∧ s'.curAddr.bits = s.curAddr.bits

theorem FrameReadsAlike.operandAddress {s' : State} (h : FrameReadsAlike s s') (hcount : 2 ≤ s.parameterCount) :
    operandAddress s' = operandAddress s := by
  simp only [Machine.operandAddress, h.params 0 (by decide) (by omega), h.params 1 (by decide) (by omega)]

theorem FrameReadsAlike.operandCount {s' : State} (h : FrameReadsAlike s s') (hcount : 3 ≤ s.parameterCount) :
    operandCount s' = operandCount s :=
  h.params 2 (by decide) (by omega)

theorem FrameReadsAlike.operandData {s' : State} (h : FrameReadsAlike s s') {n : Byte}
    (hcount : n.toNat + 3 ≤ s.parameterCount) : operandData s' n = operandData s n := by
  apply List.ext_getElem
  · simp [Machine.operandData]
  · intro k hk hk'
    simp only [Machine.operandData, List.length_map, List.length_take, List.length_drop, Vector.length_toList] at hk
    simpa [Machine.operandData] using h.params (3 + k) (by omega) (by omega)

theorem opcodeByte_readsAlike (b : Byte) : FrameReadsAlike (opcodeByte b s) (opcodeByte b (m.apply s)) where
  frameClass := fun _ => rfl
  params := fun _ _ hlt => by simp at hlt
  cursor := fun _ _ hcount => by simp at hcount

theorem appendParam_params_alike (h : FrameReadsAlike s (m.apply s)) (b : Byte) (k : Nat) (hk : k < capacity)
    (hlt : k < s.parameterCount + 1) :
    (appendParam b (m.apply s)).buf[k].bits = (appendParam b s).buf[k].bits := by
  simp only [appendParam_buf, RegisterMap.apply_parameterCount, Vector.getElem_setIfInBounds]
  split
  · rfl
  · exact h.params k hk (by omega)

/-- R142: both states capture their cursor at the same byte, and the same cursor. -/
theorem captureCursor_appendParam_readsAlike (h : FrameReadsAlike s (m.apply s)) (hprog : s.inProgress = true)
    (b : Byte) :
    captureCursor (appendParam b (m.apply s)) = m.apply (captureCursor (appendParam b s)) ∧
      FrameReadsAlike (captureCursor (appendParam b s)) (captureCursor (appendParam b (m.apply s))) := by
  have hbuf := appendParam_params_alike h b
  have hclass : frameClass (appendParam b (m.apply s)) = frameClass (appendParam b s) := h.frameClass hprog
  by_cases hcap : frameClass (appendParam b s) = .eepromWrite ∧ (appendParam b s).parameterCount = 3
  · obtain ⟨hw, h3⟩ := hcap
    have h3' : s.parameterCount + 1 = 3 := h3
    have ha : operandAddress (appendParam b (m.apply s)) = operandAddress (appendParam b s) := by
      simp only [operandAddress, hbuf 0 (by decide) (by omega), hbuf 1 (by decide) (by omega)]
    have hn : operandCount (appendParam b (m.apply s)) = operandCount (appendParam b s) :=
      hbuf 2 (by decide) (by omega)
    rw [captureCursor, if_pos ⟨hclass.trans hw, h3⟩, captureCursor, if_pos ⟨hw, h3⟩, ha, hn]
    exact ⟨by rw [appendParam_apply, setCursor_apply], fun _ => hclass, hbuf, fun _ _ _ => ⟨rfl, rfl⟩⟩
  · have hcap' : ¬(frameClass (appendParam b (m.apply s)) = .eepromWrite ∧
        (appendParam b (m.apply s)).parameterCount = 3) := by rwa [hclass]
    rw [captureCursor, if_neg hcap', captureCursor, if_neg hcap]
    refine ⟨appendParam_apply b, fun _ => hclass, hbuf, fun _ hw hcount => h.cursor hprog hw ?_⟩
    have hcount : 3 ≤ s.parameterCount + 1 := hcount
    have hne : s.parameterCount + 1 ≠ 3 := fun he => hcap ⟨hw, he⟩
    omega

/-- R91: the byte intake answers alike, and leaves states that read alike. -/
theorem intake_readsAlike (h : FrameReadsAlike s (m.apply s)) (b : Byte) :
    intake b (m.apply s) = m.apply (intake b s) ∧ FrameReadsAlike (intake b s) (m.apply (intake b s)) := by
  cases hprog : s.inProgress with
  | false =>
    rw [intake_idle hprog, intake_idle (s := m.apply s) hprog, ← opcodeByte_apply]
    exact ⟨rfl, opcodeByte_readsAlike b⟩
  | true =>
    obtain ⟨heq, hr⟩ := captureCursor_appendParam_readsAlike h hprog b
    rw [intake_busy hprog, intake_busy (s := m.apply s) hprog, ← heq]
    exact ⟨rfl, hr⟩

theorem writeComplete_alike (h : FrameReadsAlike s (m.apply s)) (hprog : s.inProgress = true)
    (hclass : frameClass s = .eepromWrite) : writeComplete (m.apply s) = writeComplete s := by
  by_cases h3 : 3 ≤ s.parameterCount
  · rw [writeComplete, (h.cursor hprog hclass h3).1]
    rfl
  · simp [writeComplete, h3]

/-- R119: the evaluation reads the class of the frame, and of its operands only those taken. -/
theorem evaluate_apply (h : FrameReadsAlike s (m.apply s)) (hprog : s.inProgress = true) :
    evaluate (m.apply s) = mapNext m.apply (evaluate s) := by
  simp only [evaluate, h.frameClass hprog]
  cases hclass : frameClass s with
  | reset => cases h0 : opcodeAlone s <;> simp [h0, exec_apply]
  | pollSonar => cases h0 : opcodeAlone s <;> simp [h0, exec_apply]
  | unrecognized => rfl
  | eepromRead =>
    cases h1 : readGoesOn s with
    | true => simp [h1]
    | false =>
      cases h2 : readComplete s with
      | false => simp [h1, h2]
      | true =>
        have hcount : s.parameterCount = 2 := by simpa [readComplete] using h2
        simp [h1, h2, h.operandAddress hcount.ge, exec_apply]
  | eepromWrite =>
    simp only [writeComplete_alike h hprog hclass]
    cases hdone : writeComplete s with
    | false => rfl
    | true =>
      obtain ⟨h3, hcount⟩ : 3 ≤ s.parameterCount ∧ s.parameterCount = s.curCount.bits.toNat + 3 := by
        simpa [writeComplete] using hdone
      obtain ⟨hn, ha⟩ := h.cursor hprog hclass h3
      simp [hn, ha, h.operandData hcount.ge, exec_apply]

theorem feed_apply (h : FrameReadsAlike s (m.apply s)) (b : Byte) :
    feed b (m.apply s) = mapNext m.apply (feed b s) := by
  obtain ⟨heq, hr⟩ := intake_readsAlike h b
  simp only [feed, bufferFull_apply, RegisterMap.apply_inProgress, heq, evaluate_apply hr (intake_inProgress b s)]
  cases s.inProgress && bufferFull s <;> rfl

/-! ### What the sequencer reads -/

/-- `s'` reads like `s` in the registers that the sequencer's rules read in WSEQ: the cursor, and the data byte at its
offset while one is left. -/
structure SequencerReadsAlike (s s' : State) : Prop where
  count : s.phase = .wseq → s'.curCount.bits = s.curCount.bits
  addr : s.phase = .wseq → s'.curAddr.bits = s.curAddr.bits
  off : s.phase = .wseq → s'.curOff.bits = s.curOff.bits
  data : s.phase = .wseq → s.curOff.bits < s.curCount.bits →
    bufByte? s' (3 + s.curOff.bits.toNat) = bufByte? s (3 + s.curOff.bits.toNat)

theorem SequencerReadsAlike.writeAddr {s' : State} (h : SequencerReadsAlike s s') (hp : s.phase = .wseq) :
    writeAddr s' = writeAddr s := by
  simp only [Machine.writeAddr, h.addr hp, h.off hp]

/-- R222: a reset draws the byte of the same write in flight. -/
theorem resetMemory_apply (h : SequencerReadsAlike s (m.apply s)) (i : Inputs) :
    resetMemory i (m.apply s) = resetMemory i s := by
  by_cases hp : s.phase = .wseq
  · have hfl : writeInFlight (m.apply s) = writeInFlight s := by
      rw [Bool.eq_iff_iff]
      simp only [writeInFlight_iff, h.writeAddr hp, h.off hp, h.count hp, RegisterMap.apply_phase, RegisterMap.apply_cfg]
    simp only [resetMemory, hfl, h.writeAddr hp]
    rfl
  · simp [resetMemory, writeInFlight, writePending, hp]
    rfl

theorem finishWriteSequence_apply (h : SequencerReadsAlike s (m.apply s)) (hp : s.phase = .wseq) :
    finishWriteSequence (m.apply s) = m.apply (finishWriteSequence s) := by
  simp only [finishWriteSequence, refresh_apply, h.addr hp, h.count hp]
  cases refresh s <;> rfl

theorem writeStep_apply (h : SequencerReadsAlike s (m.apply s)) (hp : s.phase = .wseq)
    (hlt : s.curOff.bits < s.curCount.bits) (ack : Bool) :
    writeStep ack (m.apply s) = m.apply (writeStep ack s) := by
  have hread := h.data hp hlt
  cases hd : bufByte? s (3 + s.curOff.bits.toNat) with
  | none => simp [writeStep, h.off hp, hread, hd]
  | some d =>
    cases hw : memWrite s (writeAddr s) d with
    | none => simp [writeStep, h.off hp, hread, hd, h.writeAddr hp, hw]
    | some s' =>
      simp only [writeStep, h.off hp, hread, hd, h.writeAddr hp, memWrite_apply, hw, Option.map_some]
      cases ack <;> simp [emit, RegisterMap.apply, m.byte_held]

theorem seqStep_apply (h : SequencerReadsAlike s (m.apply s)) (hp : s.phase = .wseq) (ack : Bool) :
    seqStep ack (m.apply s) = m.apply (seqStep ack s) := by
  have hoff := h.off hp
  have hcount := h.count hp
  rcases seqStep_cases ack s with ⟨hx, heq⟩ | ⟨hx, heq⟩ | ⟨hx, heq⟩ <;> rw [heq]
  · simp [seqStep, allWritten, hoff, hcount, hx, finishWriteSequence_apply h hp]
  · simp [seqStep, allWritten, pastCount, hoff, hcount, hx, (BitVec.ne_of_lt hx).symm]
  · have hle : ¬ s.curCount.bits < s.curOff.bits := by bv_omega
    simp [seqStep, allWritten, pastCount, hoff, hcount, hle, BitVec.ne_of_lt hx, writeStep_apply h hp hx]

/-! ### The step -/

/-- The state that a READY step feeds reads like the state before it. -/
theorem takeHead_settle_readsAlike {s' : State} (i : Inputs) (h : FrameReadsAlike s s') :
    FrameReadsAlike (takeHead (settle i s)) (takeHead (settle i s')) where
  frameClass := by simpa [Machine.frameClass] using h.frameClass
  params := by simpa using h.params
  cursor := by simpa [Machine.frameClass] using h.cursor

theorem settle_sequencerReadsAlike {s' : State} (i : Inputs) (h : SequencerReadsAlike s s') :
    SequencerReadsAlike (settle i s) (settle i s') where
  count := by simpa using h.count
  addr := by simpa using h.addr
  off := by simpa using h.off
  data := by simpa [bufByte?] using h.data

/-- A step answers alike on states that read alike. -/
theorem stepWith_apply (hf : FrameReadsAlike s (m.apply s)) (hq : SequencerReadsAlike s (m.apply s)) (i : Inputs) :
    stepWith i (m.apply s) = mapNext m.apply (stepWith i s) := by
  cases hr : i.rst with
  | true =>
    rw [stepWith_rst _ hr, stepWith_rst _ hr, resetStep_apply (resetMemory_apply hq i)]
    rfl
  | false =>
    have hfeed := takeHead_settle_readsAlike i hf
    have hseq := settle_sequencerReadsAlike i hq
    rw [settle_apply] at hfeed hseq
    rw [takeHead_apply] at hfeed
    rw [stepWith_noRst _ hr, stepWith_noRst _ hr, settle_apply]
    simp only [phaseStep, RegisterMap.apply_phase]
    cases hp : (settle i s).phase with
    | init => simp
    | ready =>
      simp only [readyStep, offered_apply]
      cases offered i (settle i s) with
      | none => rfl
      | some b => exact feed_apply hfeed b
    | wseq => simp [seqStep_apply hseq hp]
    | resetReq => rfl

/-- A map that leaves the draw counter alone does not touch the step's inputs either. -/
theorem step_apply (hd : m.draws = id) (hf : FrameReadsAlike s (m.apply s)) (hq : SequencerReadsAlike s (m.apply s)) :
    step (m.apply s) = mapNext m.apply (step s) := by
  have hfresh : fresh (m.apply s) = m.apply (fresh s) := by simp [fresh, RegisterMap.apply, hd]
  have hin : nextInputs (m.apply s) = nextInputs s := by simp [nextInputs, RegisterMap.apply, hd]
  have hf' : FrameReadsAlike (fresh s) (m.apply (fresh s)) := ⟨hf.frameClass, hf.params, hf.cursor⟩
  have hq' : SequencerReadsAlike (fresh s) (m.apply (fresh s)) := ⟨hq.count, hq.addr, hq.off, hq.data⟩
  cases hw : s.cfg.wellFormed with
  | false => simp [step, tick, hw, mapNext]
  | true =>
    cases hk : s.faulted with
    | some k => simp [step, tick, hw, hk, mapNext]
    | none =>
      rw [step_of_live (s := m.apply s) ⟨hw, hk⟩, step_of_live ⟨hw, hk⟩, hin, hfresh, stepWith_apply hf' hq']

/-! ### Registers without a value -/

/-- `forgetUnheld`, as a change of the registers. -/
def forgetting : RegisterMap where
  byte := Reg.forget 0
  word := Reg.forget 0
  draws := id
  byte_held := fun _ => rfl
  word_held := fun _ => rfl
  byte_noValue := rfl
  word_noValue := rfl

theorem forgetting_apply (s : State) : forgetting.apply s = forgetUnheld s := rfl

theorem mapNext_forgetUnheld (o : Host.Outcome State Fault Refusal) : mapNext forgetUnheld o = forgetOutcome o := by
  cases o <;> rfl

theorem Reg.forget_of_hasValue {α : Type} {z : α} {r : Reg α} (h : r.hasValue = true) : r.forget z = r := by
  simp [Reg.forget, h]

@[simp] theorem Reg.forget_forget {α : Type} (z : α) (r : Reg α) : (r.forget z).forget z = r.forget z := by
  unfold Reg.forget
  split <;> simp_all

@[simp] theorem forgetUnheld_forgetUnheld (s : State) : forgetUnheld (forgetUnheld s) = forgetUnheld s := by
  simp [forgetUnheld, Function.comp_def]

theorem forgetOutcome_forgetOutcome (o : Host.Outcome State Fault Refusal) :
    forgetOutcome (forgetOutcome o) = forgetOutcome o := by
  cases o <;> simp [forgetOutcome]

theorem forgetUnheld_buf_of_lt (h : LatchInv s) {k : Nat} (hk : k < capacity) (hlt : k < s.parameterCount) :
    (forgetUnheld s).buf[k] = s.buf[k] := by
  simp [forgetUnheld, Reg.forget_of_hasValue (h.paramsHeld k hk hlt)]

theorem forgetUnheld_cursor (h : LatchInv s) (hv : s.curValid = true) :
    (forgetUnheld s).curCount = s.curCount ∧ (forgetUnheld s).curAddr = s.curAddr ∧
      (forgetUnheld s).curOff = s.curOff := by
  obtain ⟨hn, ha, hoff⟩ := h.cursorHeld hv
  exact ⟨Reg.forget_of_hasValue hn, Reg.forget_of_hasValue ha, Reg.forget_of_hasValue hoff⟩

/-- R23, R25 to R27: what the accumulator reads of a frame in flight holds values. -/
theorem forgetUnheld_frameReadsAlike (h : LatchInv s) : FrameReadsAlike s (forgetUnheld s) where
  frameClass := fun hprog => frameClass_congr rfl (Reg.forget_of_hasValue (h.opcodeHeld hprog))
  params := fun k hk hlt => by rw [forgetUnheld_buf_of_lt h hk hlt]
  cursor := fun hprog hclass hcount => by
    obtain ⟨hn, ha, _⟩ := forgetUnheld_cursor h (h.captured hprog hclass hcount)
    rw [hn, ha]
    exact ⟨rfl, rfl⟩

/-- R36: the sequencer runs on a captured cursor. -/
theorem forgetUnheld_cursor_of_wseq (hinv : FrameInv s) (h : LatchInv s) (hp : s.phase = .wseq) :
    (forgetUnheld s).curCount = s.curCount ∧ (forgetUnheld s).curAddr = s.curAddr ∧
      (forgetUnheld s).curOff = s.curOff := by
  obtain ⟨_, hv, _⟩ := hinv.wseq hp
  exact forgetUnheld_cursor h hv

/-- R26 to R28, R36: in WSEQ the cursor holds values, and a data byte left to write is one of the parameters taken. -/
theorem forgetUnheld_sequencerReadsAlike (hinv : FrameInv s) (h : LatchInv s) :
    SequencerReadsAlike s (forgetUnheld s) where
  count := fun hp => by
    obtain ⟨hn, _, _⟩ := forgetUnheld_cursor_of_wseq hinv h hp
    rw [hn]
  addr := fun hp => by
    obtain ⟨_, ha, _⟩ := forgetUnheld_cursor_of_wseq hinv h hp
    rw [ha]
  off := fun hp => by
    obtain ⟨_, _, hoff⟩ := forgetUnheld_cursor_of_wseq hinv h hp
    rw [hoff]
  data := fun hp hlt => by
    obtain ⟨_, _, hcount, _⟩ := hinv.wseq hp
    have hlt : 3 + s.curOff.bits.toNat < s.parameterCount := by bv_omega
    have hk : 3 + s.curOff.bits.toNat < capacity := hlt.trans_le hinv.countBound
    simp only [bufByte?, Vector.getElem?_eq_getElem hk, forgetUnheld_buf_of_lt h hk hlt]

/-- Settles O47: the step commutes with forgetting, since every register it reads holds a value. -/
theorem unheldRegistersAreNeverRead : Obligations.UnheldRegistersAreNeverRead := by
  intro s hinv hlatch
  have hstep : step (forgetUnheld s) = forgetOutcome (step s) := by
    rw [← mapNext_forgetUnheld]
    exact step_apply (m := forgetting) rfl (forgetUnheld_frameReadsAlike hlatch)
      (forgetUnheld_sequencerReadsAlike hinv hlatch)
  rw [hstep, forgetOutcome_forgetOutcome]

/-! ### The draw counter -/

/-- The map that sets the draw counter and leaves the registers alone. -/
def setDraws (k : Nat) : RegisterMap where
  byte := id
  word := id
  draws := fun _ => k
  byte_held := fun _ => rfl
  word_held := fun _ => rfl
  byte_noValue := rfl
  word_noValue := rfl

theorem setDraws_apply (k : Nat) (s : State) : (setDraws k).apply s = { s with draws := k } := by
  simp [RegisterMap.apply, setDraws]

/-- The counter is read only where a step's inputs are drawn, before the step runs under them. -/
theorem stepWith_setDraws (i : Inputs) (k : Nat) (s : State) :
    stepWith i { s with draws := k } = mapNext (fun t => { t with draws := k }) (stepWith i s) := by
  have hf : FrameReadsAlike s { s with draws := k } := ⟨fun _ => rfl, fun _ _ _ => rfl, fun _ _ _ => ⟨rfl, rfl⟩⟩
  have hq : SequencerReadsAlike s { s with draws := k } :=
    ⟨fun _ => rfl, fun _ => rfl, fun _ => rfl, fun _ _ => rfl⟩
  have hmap : (setDraws k).apply = fun t : State => { t with draws := k } := funext (setDraws_apply k)
  rw [← setDraws_apply] at hf hq ⊢
  rw [stepWith_apply hf hq, hmap]

/-- Settles O55: both steps run under the same inputs, on states that differ in the draw counter alone. -/
theorem emptyScriptDrawsFreely : Obligations.EmptyScriptDrawsFreely := by
  intro s t hempty h
  obtain ⟨hlive, hw⟩ := step_next h
  have hfresh : fresh s = { fresh { s with script := [Config.freeInputs s.draws] } with draws := s.draws + 1 } := by
    simp [fresh, hempty]
  rw [nextInputs_cons rfl] at hw
  rw [step_of_live (s := s) hlive, nextInputs_nil hempty, hfresh, stepWith_setDraws, hw]
  rfl

end Sys2Proof.Machine
end

section
/-! SUPPORT. The state a step acts on, field by field, and what a step and a byte can do in terms of the state before
(spec/40_frame_accumulator.md R110, R111, R114, R117). -/
namespace Sys2Proof.Machine

/-! ### The acting state: bytes have arrived and `poll_clear` has been applied (R111) -/
@[simp] theorem acting_cfg (s : State) : (acting s).cfg = s.cfg := by simp [acting]
@[simp] theorem acting_phase (s : State) : (acting s).phase = s.phase := by simp [acting]
@[simp] theorem acting_inProgress (s : State) : (acting s).inProgress = s.inProgress := by simp [acting]
@[simp] theorem acting_currentOpcode (s : State) : (acting s).currentOpcode = s.currentOpcode := by simp [acting]
@[simp] theorem acting_parameterCount (s : State) : (acting s).parameterCount = s.parameterCount := by simp [acting]
@[simp] theorem acting_buf (s : State) : (acting s).buf = s.buf := by simp [acting]
@[simp] theorem acting_curValid (s : State) : (acting s).curValid = s.curValid := by simp [acting]
@[simp] theorem acting_curCount (s : State) : (acting s).curCount = s.curCount := by simp [acting]
@[simp] theorem acting_curAddr (s : State) : (acting s).curAddr = s.curAddr := by simp [acting]
@[simp] theorem acting_curOff (s : State) : (acting s).curOff = s.curOff := by simp [acting]
@[simp] theorem acting_switchThreshold (s : State) : (acting s).switchThreshold = s.switchThreshold := by simp [acting]
@[simp] theorem acting_sonarDivider (s : State) : (acting s).sonarDivider = s.sonarDivider := by simp [acting]
@[simp] theorem acting_thresholdSonar (s : State) : (acting s).thresholdSonar = s.thresholdSonar := by simp [acting]
@[simp] theorem acting_thresholdIR (s : State) : (acting s).thresholdIR = s.thresholdIR := by simp [acting]
@[simp] theorem acting_faulted (s : State) : (acting s).faulted = s.faulted := by simp [acting]
@[simp] theorem acting_mem (s : State) : (acting s).mem = s.mem := by simp [acting]
@[simp] theorem acting_tx (s : State) : (acting s).tx = s.tx := by simp [acting]
@[simp] theorem acting_pollArmed (s : State) : (acting s).pollArmed = (s.pollArmed && !(nextInputs s).pollClear) := by
  simp [acting]
@[simp] theorem acting_events (s : State) :
    (acting s).events = if (nextInputs s).pollClear && s.pollArmed then [.pollCleared] else [] := by
  simp [acting]
@[simp] theorem frameClass_acting (s : State) : frameClass (acting s) = frameClass s := by
  simp [frameClass]

@[simp] theorem frameClass_takeHead (s : State) : frameClass (takeHead s) = frameClass s := rfl

/-- Refresh reads of the acting state what it reads of the state itself. -/
@[simp] theorem configWords_acting (s : State) : configWords (acting s) = configWords s :=
  configWords_congr (acting_cfg s) (acting_mem s)

/-- R36 asks nothing that arriving bytes or `poll_clear` change. -/
theorem acting_frameInv {s : State} (h : FrameInv s) : FrameInv (acting s) := by
  apply h.congr <;> simp

/-! ### The step and the byte intake -/

/-- R110: what a step does, in terms of the inputs drawn for it and the byte offered to it. -/
theorem step_cases {s t : State} (h : step s = .next t) :
    ((nextInputs s).rst = true ∧ t = resetStep (nextInputs s) (fresh s)) ∨
    ((nextInputs s).rst = false ∧ s.phase = .init ∧ t = initStep (acting s)) ∨
    ((nextInputs s).rst = false ∧ s.phase = .ready ∧ stepByte s = none ∧ t = acting s) ∨
    ((nextInputs s).rst = false ∧ s.phase = .ready ∧ ∃ b, stepByte s = some b ∧
      feed b (takeHead (acting s)) = .next t) ∨
    ((nextInputs s).rst = false ∧ s.phase = .wseq ∧ t = seqStep (nextInputs s).stAck (acting s)) ∨
    ((nextInputs s).rst = false ∧ s.phase = .resetReq ∧ t = acting s) :=
  stepWith_next (step_next h).2

/-- R114, R117: an opcode byte has no parameters before it; any other byte is one more parameter. -/
theorem intake_parameterCount (b : Byte) (s : State) :
    (intake b s).parameterCount = if s.inProgress then s.parameterCount + 1 else 0 := by
  unfold intake; split <;> simp

/-- R91: the class is that of the byte while idle, and of the frame in flight otherwise. -/
theorem frameClass_intake (b : Byte) (s : State) :
    frameClass (intake b s) = if s.inProgress then frameClass s else decodeClass s.cfg b := by
  unfold intake; split <;> simp [frameClass]

/-- R94: the byte taken after one parameter is the low byte of the address. -/
theorem operandAddress_intake {b : Byte} {s : State} (hprog : s.inProgress = true) (hcount : s.parameterCount = 1) :
    operandAddress (intake b s) = assemble s.buf[0].bits b := by
  simp [operandAddress, intake_busy hprog, hcount]

end Sys2Proof.Machine
end

section
/-! SUPPORT. The start of a run meets the invariants (spec/10_state.md R44, spec/70_reset_and_hazards.md R223), and the
frame invariants of R36 pass through each branch of the step (O40). -/
namespace Sys2Proof.Machine

/-- Settles O19: the fault is looked at before the inputs are drawn. -/
theorem faultedTakesNoStep : Obligations.FaultedTakesNoStep := by
  intro s k hc hk
  simp [step, tick, hc, hk]

/-! ### The start of a run -/

/-- R223: the start is in INIT with no frame in flight, so every invariant but the store's holds of it. -/
theorem start_inv (c : Config) (m0 : Memory) (rx : List Byte) (script : List Inputs) :
    Inv (State.start c m0 rx script) where
  frame := FrameInv.of_idle rfl rfl rfl nofun fun h => absurd rfl h
  latch := LatchInv.of_idle rfl rfl rfl
  cache := nofun

/-- Settles O44: the start is idle in INIT, and its store is the launch image. -/
theorem startMeetsInvariants : Obligations.StartMeetsInvariants :=
  ⟨start_inv, fun _ _ _ _ hwf hbound => ⟨hwf, hbound⟩, ⟨rfl, nofun⟩, ⟨rfl, rfl⟩, rfl⟩

/-! ### The byte intake -/

/-- All four cache fields hold a value, as R36 asks out of INIT. -/
def CacheHeld (s : State) : Prop :=
  s.switchThreshold.hasValue = true ∧ s.sonarDivider.hasValue = true ∧
    s.thresholdSonar.hasValue = true ∧ s.thresholdIR.hasValue = true

/-- The evaluation leaves the frame in flight as it is: its completion predicate wants more bytes (R119). -/
def FrameOpen (s : State) : Prop :=
  frameClass s = .eepromRead ∧ s.parameterCount < 2 ∨ frameClass s = .eepromWrite ∧ writeComplete s = false

theorem FrameInv.cacheHeld_of_ready {s : State} (h : FrameInv s) (hready : s.phase = .ready) : CacheHeld s :=
  h.cacheHeld (by simp [hready])

theorem intake_cacheHeld {b : Byte} {s : State} (h : CacheHeld s) : CacheHeld (intake b s) := by
  simpa only [CacheHeld, intake_switchThreshold, intake_sonarDivider, intake_thresholdSonar, intake_thresholdIR] using h

/-- The completion of a command leaves the cache alone. -/
theorem exec_cacheHeld {i : Instr} {s t : State} (hx : exec i s = .next t) (h : CacheHeld s) : CacheHeld t := by
  obtain ⟨_, _, hw0, hw1, hw2, hw3, _⟩ := exec_keeps hx
  simpa only [CacheHeld, hw0, hw1, hw2, hw3] using h

/-- What R36 asks of a frame in flight in READY: its cursor is an unfinished EEPROM_WRITE's, and an EEPROM_READ has at
most one parameter. -/
theorem FrameInv.of_ready_inProgress {s : State} (hready : s.phase = .ready) (hprog : s.inProgress = true)
    (hbound : s.parameterCount ≤ capacity)
    (hcursor : s.curValid = true → s.currentOpcode.bits = s.cfg.opcEepromWrite ∧ 3 ≤ s.parameterCount ∧
      s.parameterCount < s.curCount.bits.toNat + 3)
    (hread : s.currentOpcode.bits = s.cfg.opcEepromRead → s.parameterCount ≤ 1)
    (hcache : CacheHeld s) : FrameInv s where
  countBound := hbound
  idle := fun h => by simp [hprog] at h
  cursor := fun hv => ⟨hprog, (hcursor hv).1, (hcursor hv).2.1⟩
  wseq := fun h => by simp [hready] at h
  readyCursor := fun _ hv => (hcursor hv).2.2
  stopped := fun h => by simp [hready] at h
  cacheHeld := fun _ => hcache
  readShort := fun _ => hread

/-- R142, R143: three or more parameters that are not the declared number do not complete the frame. -/
theorem writeComplete_eq_false_iff {s : State} :
    writeComplete s = false ↔ (3 ≤ s.parameterCount → s.parameterCount ≠ s.curCount.bits.toNat + 3) := by
  simp [writeComplete]

/-- R26, R142: the cursor after a byte in READY is that of an EEPROM_WRITE frame with its count byte, and the count is not
past the declared one. -/
theorem intake_cursor {b : Byte} {s : State} (hc : s.cfg.wellFormed = true) (hinv : FrameInv s)
    (hready : s.phase = .ready) (hv : (intake b s).curValid = true) :
    (intake b s).currentOpcode.bits = s.cfg.opcEepromWrite ∧ 3 ≤ (intake b s).parameterCount ∧
      (intake b s).parameterCount ≤ (intake b s).curCount.bits.toNat + 3 := by
  cases hprog : s.inProgress with
  | false => simp [intake_idle hprog, (hinv.idle hprog).2] at hv
  | true =>
    rw [intake_busy hprog] at hv ⊢
    rcases captureCursor_cases (appendParam b s) with ⟨hclass, hcount, hcap⟩ | ⟨_, hcap⟩ <;> rw [hcap] at hv ⊢
    · exact ⟨(decodeClass_eepromWrite_iff hc).1 hclass, hcount.ge, hcount.le.trans (Nat.le_add_left 3 _)⟩
    · obtain ⟨_, hop, hcount⟩ := hinv.cursor hv
      exact ⟨hop, Nat.le_succ_of_le hcount, hinv.readyCursor hready hv⟩

/-- R36: a byte taken in READY keeps the frame invariants, if the frame it leaves in flight is one that goes on. -/
theorem intake_frameInv {b : Byte} {s : State} (hc : s.cfg.wellFormed = true) (hinv : FrameInv s)
    (hready : s.phase = .ready) (hroom : s.inProgress = true → s.parameterCount < capacity)
    (hopen : FrameOpen (intake b s)) : FrameInv (intake b s) := by
  refine FrameInv.of_ready_inProgress (by simpa using hready) (by simp) (intake_countBound hroom) ?_ ?_
    (intake_cacheHeld (hinv.cacheHeld_of_ready hready))
  · intro hv
    obtain ⟨hop, h3, hle⟩ := intake_cursor hc hinv hready hv
    refine ⟨by simpa using hop, h3, ?_⟩
    rcases hopen with ⟨_, hlt⟩ | ⟨_, hnot⟩
    · omega
    · have := writeComplete_eq_false_iff.1 hnot h3
      omega
  · intro hop
    have hread : frameClass (intake b s) = .eepromRead := (decodeClass_eepromRead_iff (by simpa using hc)).2 hop
    rcases hopen with ⟨_, hlt⟩ | ⟨hclass, _⟩
    · omega
    · rw [hread] at hclass
      cases hclass

/-! ### The evaluation -/

/-- Only EEPROM_WRITE starts the sequencer: the other commands stay in their phase, or request a reset (R140). -/
theorem exec_phase {i : Instr} {s t : State} (hi : ∀ a n d, i ≠ .eepromWrite a n d) (h : exec i s = .next t) :
    t.phase = s.phase ∨ t.phase = .resetReq := by
  cases i with
  | reset => cases h; simp
  | eepromWrite a n d => exact absurd rfl (hi a n d)
  | eepromRead a => rcases execEepromRead_cases a s with ⟨_, h2⟩ | ⟨_, h2⟩ <;> rw [h2] at h <;> cases h <;> simp
  | pollSonar => cases h; simp
  | unrecognized b => cases h; simp

/-- A command that ends its frame in READY leaves an idle state with the cache loaded. -/
theorem exec_frameInv {i : Instr} {s t : State} (hready : s.phase = .ready) (hcache : CacheHeld s)
    (hi : ∀ a n d, i ≠ .eepromWrite a n d) (h : exec i s = .next t) (hf : t.faulted = none) : FrameInv t := by
  obtain ⟨hidle, hcount, hv⟩ := exec_ends hi h hf
  have hp : t.phase ≠ .wseq := by rcases exec_phase hi h with hp | hp <;> simp [hp, hready]
  exact FrameInv.of_idle hidle hcount hv hp fun _ => exec_cacheHeld h hcache

/-- R143: the sequencer starts on a frame with its declared number of parameters, at offset 0. -/
theorem execEepromWrite_frameInv {a : Word} {n : Byte} {d : List Byte} {s t : State} (hc : s.cfg.wellFormed = true)
    (hcache : CacheHeld s) (hbound : n.toNat + 3 ≤ capacity) (h : exec (.eepromWrite a n d) s = .next t) : FrameInv t := by
  obtain ⟨_, _, _, hne, _, _⟩ := wf_distinct hc
  cases h
  exact {
    countBound := hbound
    idle := nofun
    cursor := fun _ => ⟨rfl, rfl, Nat.le_add_left 3 _⟩
    wseq := fun _ => ⟨rfl, rfl, rfl, Nat.zero_le n.toNat⟩
    readyCursor := nofun
    stopped := nofun
    cacheHeld := fun _ => hcache
    readShort := fun _ hop => absurd hop hne }

/-- R119: an evaluation in READY leaves an unfinished frame as it is, ends the frame, or starts the sequencer on it. -/
theorem evaluate_frameInv {u t : State} (hc : u.cfg.wellFormed = true) (hready : u.phase = .ready)
    (hbound : u.parameterCount ≤ capacity) (hcache : CacheHeld u) (hopen : FrameOpen u → FrameInv u)
    (h : evaluate u = .next t) (hf : t.faulted = none) : FrameInv t := by
  rcases evaluate_next h with ⟨_, _, hx⟩ | ⟨_, _, hx⟩ | ⟨_, _, rfl⟩ | ⟨_, hx⟩ | ⟨hclass, hlt, rfl⟩ | ⟨_, _, hx⟩ |
    ⟨_, _, rfl⟩ | ⟨hclass, hnot, rfl⟩ | ⟨_, hdone, hx⟩
  · exact exec_frameInv hready hcache (by simp) hx hf
  · exact exec_frameInv hready hcache (by simp) hx hf
  · simp at hf
  · exact exec_frameInv hready hcache (by simp) hx hf
  · exact hopen (.inl ⟨hclass, hlt⟩)
  · exact exec_frameInv hready hcache (by simp) hx hf
  · exact FrameInv.of_idle rfl rfl rfl (by simp [hready]) fun _ => hcache
  · exact hopen (.inr ⟨hclass, hnot⟩)
  · obtain ⟨_, hcount⟩ : 3 ≤ u.parameterCount ∧ u.parameterCount = u.curCount.bits.toNat + 3 := by
      simpa [writeComplete] using hdone
    exact execEepromWrite_frameInv hc hcache (hcount ▸ hbound) hx

theorem feed_frameInv {b : Byte} {s t : State} (hc : s.cfg.wellFormed = true) (hready : s.phase = .ready)
    (hinv : FrameInv s) (h : feed b s = .next t) (hf : t.faulted = none) : FrameInv t := by
  have hcache := hinv.cacheHeld_of_ready hready
  rcases feed_next h with ⟨_, _, rfl⟩ | ⟨hroom, he⟩
  · exact FrameInv.of_idle rfl rfl rfl (by simp [hready]) fun _ => hcache
  · exact evaluate_frameInv (by simpa using hc) (by simpa using hready) (intake_countBound hroom)
      (intake_cacheHeld hcache) (intake_frameInv hc hinv hready hroom) he hf

/-! ### The other actions of a step -/

/-- R221: the INIT step loads the cache and becomes READY with no frame in flight. -/
theorem initStep_frameInv {s : State} (hinv : FrameInv s) (hp : s.phase = .init)
    (hf : (initStep s).faulted = none) : FrameInv (initStep s) := by
  have hidle := hinv.stopped (.inl hp)
  obtain ⟨hcount, hv⟩ := hinv.idle hidle
  rcases initStep_cases s with ⟨_, h⟩ | ⟨_, _, _, _, _, h⟩ <;> rw [h] at hf ⊢
  · simp at hf
  · exact FrameInv.of_idle hidle hcount hv nofun fun _ => ⟨rfl, rfl, rfl, rfl⟩

theorem finishWriteSequence_frameInv {s : State} (hf : (finishWriteSequence s).faulted = none) :
    FrameInv (finishWriteSequence s) := by
  rcases finishWriteSequence_cases s with ⟨_, h⟩ | ⟨_, _, _, _, _, h⟩ <;> rw [h] at hf ⊢
  · simp at hf
  · exact FrameInv.of_idle rfl rfl rfl nofun fun _ => ⟨rfl, rfl, rfl, rfl⟩

/-- R172: an acknowledged write step moves the offset by one, which stays within the count; an unacknowledged one waits. -/
theorem writeStep_frameInv {ack : Bool} {s : State} (hinv : FrameInv s) (hp : s.phase = .wseq)
    (hlt : s.curOff.bits < s.curCount.bits) (hf : (writeStep ack s).faulted = none) : FrameInv (writeStep ack s) := by
  rcases writeStep_cases ack s with ⟨_, h⟩ | ⟨_, h⟩ | ⟨_, _, _, h⟩ | ⟨_, _, _, h⟩ <;> rw [h] at hf ⊢
  · simp at hf
  · simp at hf
  · obtain ⟨hprog, hv, hcount, _⟩ := hinv.wseq hp
    have hle : s.curOff.bits + 1 ≤ s.curCount.bits := by bv_omega
    exact { hinv with wseq := fun _ => ⟨hprog, hv, hcount, hle⟩ }
  · apply hinv.congr <;> rfl

theorem seqStep_frameInv {ack : Bool} {s : State} (hinv : FrameInv s) (hp : s.phase = .wseq)
    (hf : (seqStep ack s).faulted = none) : FrameInv (seqStep ack s) := by
  rcases seqStep_cases ack s with ⟨_, h⟩ | ⟨_, h⟩ | ⟨hlt, h⟩ <;> rw [h] at hf ⊢
  · exact finishWriteSequence_frameInv hf
  · simp at hf
  · exact writeStep_frameInv hinv hp hlt hf

/-- Settles O40: the invariants pass through each branch of the step; in READY a frame goes on only while it is short of
its declared count. -/
theorem frameInvariantsKept : Obligations.FrameInvariantsKept := by
  intro s t hinv h hf
  have hc : (acting s).cfg.wellFormed = true := by simpa using (step_next h).1.1
  have hinv' := acting_frameInv hinv
  rcases step_cases h with ⟨_, rfl⟩ | ⟨_, hp, rfl⟩ | ⟨_, _, _, rfl⟩ | ⟨_, hp, b, _, hfeed⟩ | ⟨_, hp, rfl⟩ | ⟨_, _, rfl⟩
  · exact FrameInv.of_idle rfl rfl rfl nofun fun hp => absurd rfl hp
  · exact initStep_frameInv hinv' (by simpa using hp) hf
  · exact hinv'
  · have htaken : FrameInv (takeHead (acting s)) := by apply hinv'.congr <;> rfl
    exact feed_frameInv (s := takeHead (acting s)) hc (by simpa using hp) htaken hfeed hf
  · exact seqStep_frameInv hinv' (by simpa using hp) hf
  · exact hinv'

end Sys2Proof.Machine
end

section
/-! SUPPORT. What a step does to TX, to the cache and to the poll flag (spec/10_state.md R29, R31, R34): each for a
command's completion, for the evaluation, for a byte, and for the step (O49, O50, O51). -/
namespace Sys2Proof.Machine

/-! ### What the other actions of a step leave alone -/

@[simp] theorem initStep_keeps (s : State) : (initStep s).tx = s.tx ∧ (initStep s).pollArmed = s.pollArmed := by
  rcases initStep_cases s with ⟨_, h⟩ | ⟨_, _, _, _, _, h⟩ <;> rw [h] <;> simp

@[simp] theorem finishWriteSequence_keeps (s : State) :
    (finishWriteSequence s).tx = s.tx ∧ (finishWriteSequence s).pollArmed = s.pollArmed := by
  rcases finishWriteSequence_cases s with ⟨_, h⟩ | ⟨_, _, _, _, _, h⟩ <;> rw [h] <;> simp

@[simp] theorem writeStep_keeps (ack : Bool) (s : State) :
    (writeStep ack s).tx = s.tx ∧ (writeStep ack s).pollArmed = s.pollArmed ∧
      (writeStep ack s).switchThreshold = s.switchThreshold ∧ (writeStep ack s).sonarDivider = s.sonarDivider ∧
      (writeStep ack s).thresholdSonar = s.thresholdSonar ∧ (writeStep ack s).thresholdIR = s.thresholdIR := by
  rcases writeStep_cases ack s with ⟨_, h⟩ | ⟨_, h⟩ | ⟨_, _, _, h⟩ | ⟨_, _, _, h⟩ <;> rw [h] <;> simp

@[simp] theorem seqStep_keeps (ack : Bool) (s : State) :
    (seqStep ack s).tx = s.tx ∧ (seqStep ack s).pollArmed = s.pollArmed := by
  rcases seqStep_cases ack s with ⟨_, h⟩ | ⟨_, h⟩ | ⟨_, h⟩ <;> rw [h] <;> simp

/-! ### TX -/

/-- R34: no command but EEPROM_READ appends to TX. -/
theorem exec_tx {i : Instr} {s t : State} (hi : ∀ a, i ≠ .eepromRead a) (h : exec i s = .next t) : t.tx = s.tx := by
  cases i with
  | eepromRead a => exact absurd rfl (hi a)
  | reset | eepromWrite a n d | pollSonar | unrecognized b => cases h; simp

/-- R150: the evaluation appends to TX only for an EEPROM_READ with its two address bytes. -/
theorem evaluate_tx {s t : State} (h : evaluate s = .next t) :
    t.tx = s.tx ∨
    (frameClass s = .eepromRead ∧ s.parameterCount = 2 ∧ (operandAddress s).toNat < s.cfg.storeSize ∧
      t.tx = s.tx ++ response (s.mem.read (operandAddress s).toNat)) := by
  rcases evaluate_next h with ⟨_, _, hx⟩ | ⟨_, _, hx⟩ | ⟨_, _, rfl⟩ | ⟨_, hx⟩ | ⟨_, _, rfl⟩ | ⟨hclass, hcount, hx⟩ |
    ⟨_, _, rfl⟩ | ⟨_, _, rfl⟩ | ⟨_, _, hx⟩
  · exact .inl (exec_tx (by simp) hx)
  · exact .inl (exec_tx (by simp) hx)
  · exact .inl rfl
  · exact .inl (exec_tx (by simp) hx)
  · exact .inl rfl
  · rcases execEepromRead_cases (operandAddress s) s with ⟨hin, hread⟩ | ⟨_, hfault⟩
    · rw [hread] at hx
      cases hx
      exact .inr ⟨hclass, hcount, hin, rfl⟩
    · rw [hfault] at hx
      cases hx
      exact .inl rfl
  · exact .inl rfl
  · exact .inl rfl
  · exact .inl (exec_tx (by simp) hx)

/-- R34, R152: a byte appends to TX only as the second parameter of an EEPROM_READ. -/
theorem feed_tx {b : Byte} {s t : State} (h : feed b s = .next t) :
    t.tx = s.tx ∨
    (s.inProgress = true ∧ frameClass s = .eepromRead ∧ s.parameterCount = 1 ∧
      (assemble s.buf[0].bits b).toNat < s.cfg.storeSize ∧
      t.tx = s.tx ++ response (s.mem.read (assemble s.buf[0].bits b).toNat)) := by
  rcases feed_next h with ⟨_, _, rfl⟩ | ⟨_, he⟩
  · exact .inl rfl
  · rcases evaluate_tx he with htx | ⟨hclass, hcount, hin, htx⟩
    · exact .inl (by simpa using htx)
    · rw [intake_parameterCount] at hcount
      cases hprog : s.inProgress with
      | false => simp [hprog] at hcount
      | true =>
        have hone : s.parameterCount = 1 := by simpa [hprog] using hcount
        rw [frameClass_intake, if_pos hprog] at hclass
        rw [operandAddress_intake hprog hone] at hin htx
        exact .inr ⟨rfl, hclass, hone, by simpa using hin, by simpa using htx⟩

/-- Settles O49: of the step's branches only a byte taken in READY can append. -/
theorem txGrowsOnlyByReads : Obligations.TxGrowsOnlyByReads := by
  intro s t h
  rcases step_cases h with ⟨_, rfl⟩ | ⟨_, _, rfl⟩ | ⟨_, _, _, rfl⟩ | ⟨_, hp, b, hb, hfeed⟩ | ⟨_, _, rfl⟩ | ⟨_, _, rfl⟩
  case inr.inr.inr.inl =>
    obtain ⟨_, _, _, _, _, _, _, htake, _⟩ := feed_keeps hfeed
    rcases feed_tx hfeed with htx | ⟨hprog, hclass, hcount, hin, htx⟩
    · exact .inl (by simpa using htx)
    · rw [takeHead_inProgress, acting_inProgress] at hprog
      rw [takeHead_parameterCount, acting_parameterCount] at hcount
      exact .inr ⟨hp, hprog, by simpa using hclass, hcount, by simpa using htake, b, hb,
        by simpa using hin, by simpa using htx⟩
  all_goals exact .inl (by simp)

/-! ### The cache -/

/-- Settles O50: of the branches of a step without rst only the INIT step and the finishing step run Refresh. -/
theorem cacheChangesOnlyByRefresh : Obligations.CacheChangesOnlyByRefresh := by
  intro s t h hr
  rcases step_cases h with ⟨hrst, _⟩ | ⟨_, hp, rfl⟩ | ⟨_, _, _, rfl⟩ | ⟨_, _, b, _, hfeed⟩ | ⟨_, hp, rfl⟩ | ⟨_, _, rfl⟩
  · simp [hr] at hrst
  · rcases initStep_cases (acting s) with ⟨_, hi⟩ | ⟨w0, w1, w2, w3, hw, hi⟩ <;> rw [hi]
    · exact .inl (by simp)
    · rw [configWords_acting] at hw
      exact .inr ⟨.inl hp, rfl, w0, w1, w2, w3, hw, rfl, rfl, rfl, rfl⟩
  · exact .inl (by simp)
  · obtain ⟨_, _, hw0, hw1, hw2, hw3, _⟩ := feed_keeps hfeed
    exact .inl (by simp [hw0, hw1, hw2, hw3])
  · rcases seqStep_cases (nextInputs s).stAck (acting s) with ⟨hdone, hq⟩ | ⟨_, hq⟩ | ⟨_, hq⟩ <;> rw [hq]
    · rcases finishWriteSequence_cases (acting s) with ⟨_, hi⟩ | ⟨w0, w1, w2, w3, hw, hi⟩ <;> rw [hi]
      · exact .inl (by simp)
      · rw [configWords_acting] at hw
        have hdone : s.curOff.bits = s.curCount.bits := by simpa using hdone
        exact .inr ⟨.inr ⟨hp, hdone⟩, rfl, w0, w1, w2, w3, hw, rfl, rfl, rfl, rfl⟩
    · exact .inl (by simp)
    · exact .inl (by simp)
  · exact .inl (by simp)

/-! ### The poll flag -/

/-- R29: no command but POLL_SONAR writes the poll flag. -/
theorem exec_pollArmed {i : Instr} {s t : State} (hi : i ≠ .pollSonar) (h : exec i s = .next t) :
    t.pollArmed = s.pollArmed := by
  cases i with
  | pollSonar => exact absurd rfl hi
  | eepromRead a => rcases execEepromRead_cases a s with ⟨_, h2⟩ | ⟨_, h2⟩ <;> rw [h2] at h <;> cases h <;> simp
  | reset | eepromWrite a n d | unrecognized b => cases h; simp

/-- R160: the evaluation sets the poll flag exactly for a POLL_SONAR without parameters. -/
theorem evaluate_pollArmed {s t : State} (h : evaluate s = .next t) :
    t.pollArmed = (decide (frameClass s = .pollSonar ∧ s.parameterCount = 0) || s.pollArmed) := by
  rcases evaluate_next h with ⟨hclass, _, hx⟩ | ⟨hclass, hcount, hx⟩ | ⟨_, hcount, rfl⟩ | ⟨hclass, hx⟩ |
    ⟨hclass, _, rfl⟩ | ⟨hclass, _, hx⟩ | ⟨hclass, _, rfl⟩ | ⟨hclass, _, rfl⟩ | ⟨hclass, _, hx⟩
  · rw [exec_pollArmed (by simp) hx]
    simp [hclass]
  · cases hx
    simp [hclass, hcount]
  · simp [hcount]
  · rw [exec_pollArmed (by simp) hx]
    simp [hclass]
  · simp [hclass]
  · rw [exec_pollArmed (by simp) hx]
    simp [hclass]
  · simp [hclass]
  · simp [hclass]
  · rw [exec_pollArmed (by simp) hx]
    simp [hclass]

/-- R91, R160: a byte sets the poll flag exactly if it is the POLL_SONAR opcode and no frame is in flight. -/
theorem feed_pollArmed {b : Byte} {s t : State} (hc : s.cfg.wellFormed = true) (h : feed b s = .next t) :
    t.pollArmed = (decide (s.inProgress = false ∧ b = s.cfg.opcPollSonar) || s.pollArmed) := by
  rcases feed_next h with ⟨hprog, _, rfl⟩ | ⟨_, he⟩
  · simp [hprog]
  · have hset := evaluate_pollArmed he
    rw [frameClass_intake, intake_parameterCount, intake_pollArmed] at hset
    cases hprog : s.inProgress with
    | false => simpa [hprog, decodeClass_pollSonar_iff hc] using hset
    | true => simpa [hprog] using hset

/-- Settles O51: `poll_clear` acts before the byte is taken, so a set in the same step wins. -/
theorem pollFlagRule : Obligations.PollFlagRule := by
  intro s t hr h _
  have hlive := (step_next h).1
  rcases step_cases h with ⟨hrst, _⟩ | ⟨_, hp, rfl⟩ | ⟨_, _, hb, rfl⟩ | ⟨_, hp, b, hb, hfeed⟩ | ⟨_, hp, rfl⟩ |
    ⟨_, hp, rfl⟩
  · simp [hr] at hrst
  · simp [hp]
  · simp [hb]
  · have hset := feed_pollArmed (by simpa using hlive.1) hfeed
    simpa [hp, hb] using hset
  · simp [hp]
  · simp [hp]

end Sys2Proof.Machine
end

section
/-! SUPPORT. The writes a step records are the writes it presents (spec/10_state.md R41, spec/42_write_sequencer.md
R172, spec/70_reset_and_hazards.md R220). -/
namespace Sys2Proof.Machine

/-- The events of the last step record a write of `d` at `a`, acknowledged or waiting. -/
def RecordsWrite (s : State) (a : Word) (d : Byte) : Prop := .writeAck a d ∈ s.events ∨ .writeWait a d ∈ s.events

variable {s t : State} {a : Word} {d : Byte}

/-- R112: an event is a record of the write if it is its WRITE_ACK or its WRITE_WAIT. -/
theorem recordsWrite_emit {e : Event} :
    RecordsWrite (emit s e) a d ↔ RecordsWrite s a d ∨ e = .writeAck a d ∨ e = .writeWait a d := by
  simp only [RecordsWrite, emit_events, List.mem_append, List.mem_singleton, eq_comm (a := e)]
  tauto

/-- R112: no command records a write; the sequencer's steps do. -/
theorem exec_recordsWrite {i : Instr} (h : exec i s = .next t) : RecordsWrite t a d ↔ RecordsWrite s a d := by
  cases i with
  | eepromRead a' =>
    rcases execEepromRead_cases a' s with ⟨_, h2⟩ | ⟨_, h2⟩ <;> rw [h2] at h <;> cases h <;> simp [RecordsWrite]
  | reset | eepromWrite a' n d' | pollSonar | unrecognized b => cases h; simp [RecordsWrite]

theorem intake_recordsWrite {b : Byte} : RecordsWrite (intake b s) a d ↔ RecordsWrite s a d := by
  unfold intake; split <;> simp [RecordsWrite]

theorem evaluate_recordsWrite (h : evaluate s = .next t) : RecordsWrite t a d ↔ RecordsWrite s a d := by
  rcases evaluate_next h with ⟨_, _, hx⟩ | ⟨_, _, hx⟩ | ⟨_, _, rfl⟩ | ⟨_, hx⟩ | ⟨_, _, rfl⟩ | ⟨_, _, hx⟩ |
    ⟨_, _, rfl⟩ | ⟨_, _, rfl⟩ | ⟨_, _, hx⟩
  · exact exec_recordsWrite hx
  · exact exec_recordsWrite hx
  · rfl
  · exact exec_recordsWrite hx
  · rfl
  · exact exec_recordsWrite hx
  · simp [RecordsWrite]
  · rfl
  · exact exec_recordsWrite hx

theorem feed_recordsWrite {b : Byte} (h : feed b s = .next t) : RecordsWrite t a d ↔ RecordsWrite s a d := by
  rcases feed_next h with ⟨_, _, rfl⟩ | ⟨_, he⟩
  · simp [RecordsWrite]
  · rw [evaluate_recordsWrite he, intake_recordsWrite]

theorem initStep_recordsWrite : RecordsWrite (initStep s) a d ↔ RecordsWrite s a d := by
  rcases initStep_cases s with ⟨_, h⟩ | ⟨_, _, _, _, _, h⟩ <;> rw [h] <;> simp [RecordsWrite]

theorem finishWriteSequence_recordsWrite : RecordsWrite (finishWriteSequence s) a d ↔ RecordsWrite s a d := by
  rcases finishWriteSequence_cases s with ⟨_, h⟩ | ⟨_, _, _, _, _, h⟩ <;> rw [h] <;> simp [RecordsWrite]

/-- R110, R112: the event list is empty at the start of a step, and `poll_clear` records no write. -/
theorem not_recordsWrite_acting : ¬ RecordsWrite (acting s) a d := by
  simp [RecordsWrite]

/-- R172: the data byte of the sequencer's offset lies in the buffer. -/
theorem FrameInv.data_lt_capacity (h : FrameInv s) (hp : s.phase = .wseq) (hlt : s.curOff.bits < s.curCount.bits) :
    3 + s.curOff.bits.toNat < capacity := by
  obtain ⟨_, _, hcount, _⟩ := h.wseq hp
  have hbound := h.countBound
  bv_omega

/-- R41: the request outputs of a sequencer with a byte left to write. -/
theorem stWaddr_stWdata_iff (hreq : stWreq s = true) (hk : 3 + s.curOff.bits.toNat < capacity) :
    stWaddr s = some a ∧ stWdata s = some d ↔ writeAddr s = a ∧ s.buf[3 + s.curOff.bits.toNat].bits = d := by
  simp [stWaddr, stWdata, hreq, Vector.getElem?_eq_getElem hk]

/-- R172: a sequencer step records the write of its request outputs, or, for an address that does not exist, none. -/
theorem seqStep_recordsWrite {ack : Bool} (hinv : FrameInv s) (hp : s.phase = .wseq) :
    RecordsWrite (seqStep ack s) a d ↔ RecordsWrite s a d ∨
      stWreq s = true ∧ (writeAddr s).toNat < s.cfg.storeSize ∧ stWaddr s = some a ∧ stWdata s = some d := by
  rcases seqStep_cases ack s with ⟨heq, h⟩ | ⟨hgt, h⟩ | ⟨hlt, h⟩ <;> rw [h]
  · have hreq : ¬ stWreq s = true := by simp [stWreq_iff, heq]
    simp [finishWriteSequence_recordsWrite, hreq]
  · have hreq : ¬ stWreq s = true := by
      rw [stWreq_iff]
      bv_omega
    simp [RecordsWrite, hreq]
  · have hk := hinv.data_lt_capacity hp hlt
    have hreq := stWreq_iff.2 ⟨hp, hlt⟩
    rw [stWaddr_stWdata_iff hreq hk]
    rcases writeStep_cases ack s with ⟨hout, _⟩ | ⟨hout, h⟩ | ⟨_, hin, _, h⟩ | ⟨_, hin, _, h⟩
    · omega
    · have hout : ¬ (writeAddr s).toNat < s.cfg.storeSize := by omega
      simp [h, RecordsWrite, hout]
    · rw [h]
      exact recordsWrite_emit.trans (by simp [RecordsWrite, hreq, hin])
    · rw [h]
      exact recordsWrite_emit.trans (by simp [RecordsWrite, hreq, hin])

@[simp] theorem stWreq_acting : stWreq (acting s) = stWreq s := by
  simp [stWreq, writePending]

@[simp] theorem stWaddr_acting : stWaddr (acting s) = stWaddr s := by
  simp [stWaddr]

@[simp] theorem stWdata_acting : stWdata (acting s) = stWdata s := by
  simp [stWdata]

/-- R220, R172: a step with rst, or out of WSEQ, presents no write. -/
theorem not_presentsWrite {i : Inputs} (h : i.rst = true ∨ s.phase ≠ .wseq) : ¬ presentsWrite i s = true := by
  rw [presentsWrite_iff, stWreq_iff]
  rcases h with h | h <;> simp [h]

/-- Settles O57: only the sequencer's step records a write, and it is that of the request outputs. -/
theorem presentedWriteIsRecorded : Obligations.PresentedWriteIsRecorded := by
  intro s t a d hinv h
  change RecordsWrite t a d ↔ _
  rcases step_cases h with ⟨hr, rfl⟩ | ⟨_, hp, rfl⟩ | ⟨_, hp, _, rfl⟩ | ⟨_, hp, b, _, hfeed⟩ | ⟨hr, hp, rfl⟩ |
    ⟨_, hp, rfl⟩
  · simp [RecordsWrite, not_presentsWrite (.inl hr)]
  · simp [initStep_recordsWrite, not_recordsWrite_acting, not_presentsWrite, hp]
  · simp [not_recordsWrite_acting, not_presentsWrite, hp]
  · have hnone : ¬ RecordsWrite (takeHead (acting s)) a d := not_recordsWrite_acting
    simp [feed_recordsWrite hfeed, hnone, not_presentsWrite, hp]
  · rw [seqStep_recordsWrite (acting_frameInv hinv) (by simpa using hp), presentsWrite_iff]
    simp [not_recordsWrite_acting, hr, and_assoc]
  · simp [not_recordsWrite_acting, not_presentsWrite, hp]

end Sys2Proof.Machine
end

section
/-! SUPPORT. The store through a step (spec/20_memory.md R60, R62, R65): a step leaves it as it is, or writes the byte at
the sequencer's address, from which O42 and O48 follow; EEPROM_READ of an address that does not exist (O12). -/
namespace Sys2Proof.Machine

variable {s t : State}

@[simp] theorem initStep_mem (s : State) : (initStep s).mem = s.mem := by
  rcases initStep_cases s with ⟨_, h⟩ | ⟨_, _, _, _, _, h⟩ <;> rw [h] <;> simp

@[simp] theorem finishWriteSequence_mem (s : State) : (finishWriteSequence s).mem = s.mem := by
  rcases finishWriteSequence_cases s with ⟨_, h⟩ | ⟨_, _, _, _, _, h⟩ <;> rw [h] <;> simp

/-- R65: the memory `m` is the store of `s`, or that store with one byte written at the sequencer's address, while it has a
byte left to write and the address exists. `may` says what the write needs beside that. -/
def StoreWritten (s : State) (may : Prop) (m : Memory) : Prop :=
  m = s.mem ∨ ∃ v, stWreq s = true ∧ (writeAddr s).toNat < s.cfg.storeSize ∧ may ∧ m = s.mem.write (writeAddr s).toNat v

/-- R222: a reset writes the byte of a write in flight. -/
theorem resetMemory_storeWritten (i : Inputs) (s : State) : StoreWritten s True (resetMemory i s) := by
  unfold resetMemory
  split
  next h =>
    obtain ⟨hp, hlt, hin⟩ := writeInFlight_iff.1 h
    exact .inr ⟨i.resetByte, stWreq_iff.2 ⟨hp, hlt⟩, hin, trivial, rfl⟩
  next => exact .inl rfl

/-- R171 to R173: the sequencer's step writes only the byte it has been acknowledged. -/
theorem seqStep_storeWritten {ack : Bool} (hp : s.phase = .wseq) :
    StoreWritten s (ack = true) (seqStep ack s).mem := by
  rcases seqStep_cases ack s with ⟨_, h⟩ | ⟨_, h⟩ | ⟨hlt, h⟩ <;> rw [h]
  · exact .inl (by simp)
  · exact .inl rfl
  · rcases writeStep_cases ack s with ⟨_, h⟩ | ⟨_, h⟩ | ⟨_, hin, hack, h⟩ | ⟨_, _, _, h⟩ <;> rw [h]
    · exact .inl rfl
    · exact .inl rfl
    · exact .inr ⟨_, stWreq_iff.2 ⟨hp, hlt⟩, hin, hack, rfl⟩
    · exact .inl rfl

/-- R65: what any step does to the store. -/
theorem step_storeWritten (h : step s = .next t) :
    StoreWritten s ((nextInputs s).rst = true ∨ (nextInputs s).stAck = true) t.mem := by
  rcases step_cases h with ⟨hr, rfl⟩ | ⟨_, _, rfl⟩ | ⟨_, _, _, rfl⟩ | ⟨_, _, b, _, hfeed⟩ | ⟨_, hp, rfl⟩ | ⟨_, _, rfl⟩
  · rcases resetMemory_storeWritten (nextInputs s) (fresh s) with hm | ⟨v, hreq, hin, _, hm⟩
    · exact .inl hm
    · exact .inr ⟨v, hreq, hin, .inl hr, hm⟩
  · exact .inl (by simp)
  · exact .inl (by simp)
  · obtain ⟨_, hm, _⟩ := feed_keeps hfeed
    exact .inl (by simpa using hm)
  · rcases seqStep_storeWritten (s := acting s) (by simpa using hp) with hm | ⟨v, hreq, hin, hack, hm⟩
    · exact .inl (by simpa using hm)
    · exact .inr ⟨v, by simpa using hreq, by simpa using hin, .inr hack, by simpa using hm⟩
  · exact .inl (by simp)

/-- Settles O42: a step's one possible write keeps the canonical form, and its address is below STORE_SIZE. -/
theorem storeInvariantKept : Obligations.StoreInvariantKept := by
  intro s t ⟨hwf, hbound⟩ h
  have hcfg : t.cfg = s.cfg := configurationIsFixed s t h
  rcases step_storeWritten h with hm | ⟨v, _, hin, _, hm⟩
  · exact ⟨hm ▸ hwf, by simpa only [hm, hcfg] using hbound⟩
  · exact ⟨hm ▸ write_wf _ _ hwf, by simpa only [hm, hcfg] using write_bound hin hbound⟩

/-- Settles O48: a step's one possible write changes no byte but that of its own address. -/
theorem storeChangesOnlyByTheSequencer : Obligations.StoreChangesOnlyByTheSequencer := by
  intro s t x h hne
  rcases step_storeWritten h with hm | ⟨v, hreq, hin, hmay, hm⟩
  · exact absurd (by rw [hm]) hne
  · have hx : x = (writeAddr s).toNat := by
      by_contra hx
      exact hne (by rw [hm, read_write_other v hx])
    exact ⟨(stWreq_iff.1 hreq).1, hreq, hx, hx ▸ hin, hmay⟩

/-- Settles O12: the faulting branch of EEPROM_READ records the fault alone. -/
theorem readOutOfRangeFaults : Obligations.ReadOutOfRangeFaults := by
  intro a s hout
  rcases execEepromRead_cases a s with ⟨hin, _⟩ | ⟨_, h⟩
  · omega
  · exact h

end Sys2Proof.Machine
end

section
/-! SUPPORT. Refresh and cache coherence (spec/20_memory.md R70 to R73): where Refresh answers nothing (O30), and coherence
through each branch of the step (O43). -/
namespace Sys2Proof.Machine

variable {s t : State}

/-! ### Where Refresh answers nothing -/

/-- R66, R67: a configuration word does not exist where one of its two bytes does not. -/
theorem memReadWord_none {a : Word} :
    memReadWord s a = none ↔ s.cfg.storeSize ≤ a.toNat ∨ s.cfg.storeSize ≤ (a + 1).toNat := by
  rw [← memRead_none, ← memRead_none]
  unfold memReadWord
  cases memRead s a <;> cases memRead s (a + 1) <;> simp

/-- R70: Refresh answers nothing exactly where one of the eight configuration bytes does not exist. -/
theorem configWords_none_iff :
    configWords s = none ↔
      ∃ f, s.cfg.storeSize ≤ (configAddr s.cfg f).toNat ∨ s.cfg.storeSize ≤ (configAddr s.cfg f + 1).toNat := by
  constructor
  · intro h
    by_contra hall
    push Not at hall
    simp [configWords_of_inStore hall] at h
  · rintro ⟨f, hf⟩
    have hword : memReadWord s (configAddr s.cfg f) = none := memReadWord_none.2 hf
    unfold configWords
    cases f <;> simp only [configAddr] at hword <;> simp [hword]

/-- The INIT step of a live state (R221). -/
theorem init_step (hl : Live s) (hp : s.phase = .init) (hr : (nextInputs s).rst = false) :
    step s = .next (initStep (acting s)) := by
  rw [step_of_live hl, stepWith_noRst _ hr]
  simp [phaseStep, hp, acting]

/-- Settles O30: Refresh answers nothing, so the INIT step records the fault alone. -/
theorem initStepFaultsOutOfRange : Obligations.InitStepFaultsOutOfRange := by
  intro s hl hp hr hout
  have hnone : configWords (acting s) = none := by rw [configWords_acting, configWords_none_iff.2 hout]
  rw [init_step hl hp hr]
  rcases initStep_cases (acting s) with ⟨_, h⟩ | ⟨_, _, _, _, hsome, _⟩
  · rw [h]
    rfl
  · simp [hnone] at hsome

/-! ### Cache coherence -/

/-- R72: coherence carries over to a state with the same configuration, store and cache that has not become READY. -/
theorem CacheInv.congr (h : CacheInv s) (hp : t.phase = .ready → s.phase = .ready) (hcfg : t.cfg = s.cfg)
    (hmem : t.mem = s.mem) (hw0 : t.switchThreshold = s.switchThreshold) (hw1 : t.sonarDivider = s.sonarDivider)
    (hw2 : t.thresholdSonar = s.thresholdSonar) (hw3 : t.thresholdIR = s.thresholdIR) : CacheInv t := by
  intro ht
  rw [configWords_congr hcfg hmem, hw0, hw1, hw2, hw3]
  exact h (hp ht)

theorem acting_cacheInv (h : CacheInv s) : CacheInv (acting s) := by
  apply h.congr <;> simp

/-- R72: a byte taken in READY changes neither the store nor the cache. -/
theorem feed_cacheInv {b : Byte} (hinv : CacheInv s) (hp : s.phase = .ready) (h : feed b s = .next t) : CacheInv t := by
  obtain ⟨hcfg, hmem, hw0, hw1, hw2, hw3, _⟩ := feed_keeps h
  exact hinv.congr (fun _ => hp) hcfg hmem hw0 hw1 hw2 hw3

/-- R71: a Refresh loads what it read, and the store stays. -/
theorem CacheInv.of_configWords {w0 w1 w2 w3 : Word} (h : configWords s = some (w0, w1, w2, w3)) (hcfg : t.cfg = s.cfg)
    (hmem : t.mem = s.mem) (hw0 : t.switchThreshold = .held w0) (hw1 : t.sonarDivider = .held w1)
    (hw2 : t.thresholdSonar = .held w2) (hw3 : t.thresholdIR = .held w3) : CacheInv t := by
  intro _
  rw [configWords_congr hcfg hmem, h, hw0, hw1, hw2, hw3]
  rfl

theorem initStep_cacheInv (hf : (initStep s).faulted = none) : CacheInv (initStep s) := by
  rcases initStep_cases s with ⟨_, h⟩ | ⟨w0, w1, w2, w3, hw, h⟩ <;> rw [h] at hf ⊢
  · simp at hf
  · exact .of_configWords hw rfl rfl rfl rfl rfl rfl

theorem finishWriteSequence_cacheInv (hf : (finishWriteSequence s).faulted = none) :
    CacheInv (finishWriteSequence s) := by
  rcases finishWriteSequence_cases s with ⟨_, h⟩ | ⟨w0, w1, w2, w3, hw, h⟩ <;> rw [h] at hf ⊢
  · simp at hf
  · exact .of_configWords hw rfl rfl rfl rfl rfl rfl

/-- R172: a write step does not leave the sequencer. -/
@[simp] theorem writeStep_phase (ack : Bool) (s : State) : (writeStep ack s).phase = s.phase := by
  rcases writeStep_cases ack s with ⟨_, h⟩ | ⟨_, h⟩ | ⟨_, _, _, h⟩ | ⟨_, _, _, h⟩ <;> rw [h] <;> simp

/-- R73: the store may differ from the cache while bytes are written; the sequencer becomes READY only by a Refresh. -/
theorem seqStep_cacheInv {ack : Bool} (hp : s.phase = .wseq) (hf : (seqStep ack s).faulted = none) :
    CacheInv (seqStep ack s) := by
  rcases seqStep_cases ack s with ⟨_, h⟩ | ⟨_, h⟩ | ⟨_, h⟩ <;> rw [h] at hf ⊢
  · exact finishWriteSequence_cacheInv hf
  · simp at hf
  · exact fun hready => by simp [hp] at hready

/-- Settles O43: coherence passes through each branch of the step; READY is entered only by a Refresh, and while READY
nothing writes the store or the cache. -/
theorem cacheCoherenceKept : Obligations.CacheCoherenceKept := by
  intro s t hinv h hf
  have hinv' := acting_cacheInv hinv
  rcases step_cases h with ⟨_, rfl⟩ | ⟨_, _, rfl⟩ | ⟨_, _, _, rfl⟩ | ⟨_, hp, b, _, hfeed⟩ | ⟨_, hp, rfl⟩ | ⟨_, _, rfl⟩
  · exact nofun
  · exact initStep_cacheInv hf
  · exact hinv'
  · have htaken : CacheInv (takeHead (acting s)) := by apply hinv'.congr <;> simp
    exact feed_cacheInv htaken (by simpa using hp) hfeed
  · exact seqStep_cacheInv (by simpa using hp) hf
  · exact hinv'

end Sys2Proof.Machine
end

section
/-! SUPPORT. The decoders and the encoder (spec/30_encoding.md R92 to R96): what the frame decoder answers, class by class,
and that decoding and encoding are inverse (O3, O4). -/
namespace Sys2Proof

open Machine (assemble_hi_lo hiByte_assemble loByte_assemble)

variable {c : Config} {i : Instr} {aH aL n : Byte} {ps ds bs rest : List Byte}

/-! ### The opcode decoder -/

/-- Settles O1: the four values are pairwise distinct, so each test of the decoder catches its own. -/
theorem opcodeByteDecodes : Obligations.OpcodeByteDecodes := fun _ hc =>
  ⟨decodeClass_reset_iff.2 rfl, (decodeClass_eepromWrite_iff hc).2 rfl, (decodeClass_eepromRead_iff hc).2 rfl,
    (decodeClass_pollSonar_iff hc).2 rfl,
    fun _ hreset hwrite hread hpoll => decodeClass_unrecognized_iff.2 ⟨hreset, hwrite, hread, hpoll⟩⟩

/-- R92: the bytes that are commands. -/
theorem decodeClass_ne_unrecognized_iff {b : Byte} :
    decodeClass c b ≠ .unrecognized ↔
      b = c.opcReset ∨ b = c.opcEepromWrite ∨ b = c.opcEepromRead ∨ b = c.opcPollSonar := by
  rw [Ne, decodeClass_unrecognized_iff]
  tauto

/-- The four opcode values as numbers. -/
def opcodeNumbers (c : Config) : List Nat :=
  [c.opcReset.toNat, c.opcEepromWrite.toNat, c.opcEepromRead.toNat, c.opcPollSonar.toNat]

theorem opcodeNumbers_nodup (hc : c.wellFormed = true) : (opcodeNumbers c).Nodup := by
  obtain ⟨h1, h2, h3, h4, h5, h6⟩ := wf_distinct hc
  simp [opcodeNumbers, BitVec.toNat_inj, h1, h2, h3, h4, h5, h6]

theorem mem_opcodeNumbers_iff {k : Nat} :
    k ∈ opcodeNumbers c ↔ k < 256 ∧ decodeClass c (BitVec.ofNat 8 k) ≠ .unrecognized := by
  have hbyte (b : Byte) : k = b.toNat ↔ k < 256 ∧ BitVec.ofNat 8 k = b := by
    rw [← BitVec.toNat_inj, BitVec.toNat_ofNat]
    omega
  simp only [opcodeNumbers, List.mem_cons, List.not_mem_nil, or_false, hbyte, decodeClass_ne_unrecognized_iff]
  tauto

/-- R96: the command bytes among the 256 are the four opcode values, each listed once. -/
theorem commandBytes_perm (hc : c.wellFormed = true) :
    ((List.range 256).filter fun k => decodeClass c (BitVec.ofNat 8 k) ≠ .unrecognized).Perm (opcodeNumbers c) := by
  rw [List.perm_ext_iff_of_nodup (List.nodup_range.filter _) (opcodeNumbers_nodup hc)]
  intro k
  rw [mem_opcodeNumbers_iff]
  simp

/-- Settles O2: the 256 bytes are the four opcode values and the UNRECOGNIZED ones. -/
theorem fourOpcodesAreCommands : Obligations.FourOpcodesAreCommands := by
  intro c hc
  refine ⟨?_, fun b => decodeClass_ne_unrecognized_iff⟩
  have hcommands := (commandBytes_perm hc).length_eq
  have hsplit := List.length_eq_length_filter_add (l := List.range 256)
    fun k => decide (decodeClass c (BitVec.ofNat 8 k) = .unrecognized)
  simp only [opcodeNumbers, List.length_cons, List.length_nil, decide_not] at hcommands
  rw [hcommands, List.length_range] at hsplit
  omega

/-! ### The frame decoder, opcode by opcode (R93, R95) -/

theorem decode_reset : decode c (c.opcReset :: ps) = .frame .reset ps := by
  simp [decode, decodeClass_reset_iff.2]

theorem decode_pollSonar (hc : c.wellFormed = true) : decode c (c.opcPollSonar :: ps) = .frame .pollSonar ps := by
  simp [decode, (decodeClass_pollSonar_iff hc).2]

theorem decode_unrecognized {b : Byte} (hb : decodeClass c b = .unrecognized) :
    decode c (b :: ps) = .frame (.unrecognized b) ps := by
  simp [decode, hb]

theorem decode_eepromRead (hc : c.wellFormed = true) :
    decode c (c.opcEepromRead :: aH :: aL :: ps) = .frame (.eepromRead (assemble aH aL)) ps := by
  simp [decode, (decodeClass_eepromRead_iff hc).2]

theorem decode_eepromWrite (hc : c.wellFormed = true) :
    decode c (c.opcEepromWrite :: aH :: aL :: n :: ds) =
      if n.toNat ≤ maxCount then
        if n.toNat ≤ ds.length then .frame (.eepromWrite (assemble aH aL) n (ds.take n.toNat)) (ds.drop n.toNat)
        else .needMore
      else if overflowCount ≤ ds.length then .paramOverflow (ds.drop overflowCount) else .needMore := by
  simp [decode, (decodeClass_eepromWrite_iff hc).2]

/-- R95: an EEPROM_WRITE is well formed if it carries the data bytes it declares, at most 29. -/
theorem eepromWrite_wellFormed_iff {a : Word} :
    (Instr.eepromWrite a n ds).wellFormed c = true ↔ ds.length = n.toNat ∧ n.toNat ≤ maxCount := by
  simp [Instr.wellFormed]

/-- R96: an UNRECOGNIZED command is well formed if its byte is of that class. -/
theorem unrecognized_wellFormed_iff {b : Byte} :
    (Instr.unrecognized b).wellFormed c = true ↔ decodeClass c b = .unrecognized := by
  simp [Instr.wellFormed, decodeClass_unrecognized_iff, and_assoc]

/-- R92, R93: the opcode of a command's frame decodes to the command's class. -/
theorem decodeClass_opcodeByte (hc : c.wellFormed = true) (hi : i.wellFormed c = true) :
    decodeClass c (i.opcodeByte c) = i.commandClass := by
  cases i with
  | reset => exact decodeClass_reset_iff.2 rfl
  | eepromWrite a n d => exact (decodeClass_eepromWrite_iff hc).2 rfl
  | eepromRead a => exact (decodeClass_eepromRead_iff hc).2 rfl
  | pollSonar => exact (decodeClass_pollSonar_iff hc).2 rfl
  | unrecognized b => exact unrecognized_wellFormed_iff.1 hi

/-- Settles O3: each frame's opcode selects its own format, whose fields are read back in the order they were written. -/
theorem decodeOfEncode : Obligations.DecodeOfEncode := by
  intro c i rest hc hi
  cases i with
  | reset => exact decode_reset
  | eepromWrite a n d =>
    obtain ⟨hlen, hmax⟩ := eepromWrite_wellFormed_iff.1 hi
    have hle : n.toNat ≤ (d ++ rest).length := by rw [List.length_append]; omega
    have hdec := decode_eepromWrite (aH := hiByte a) (aL := loByte a) (n := n) (ds := d ++ rest) hc
    rw [if_pos hmax, if_pos hle, assemble_hi_lo, List.take_left' hlen, List.drop_left' hlen] at hdec
    exact hdec
  | eepromRead a =>
    have hdec := decode_eepromRead (aH := hiByte a) (aL := loByte a) (ps := rest) hc
    rw [assemble_hi_lo] at hdec
    exact hdec
  | pollSonar => exact decode_pollSonar hc
  | unrecognized b => exact decode_unrecognized (unrecognized_wellFormed_iff.1 hi)

/-! ### What a decoded command says of the stream -/

/-- R93: a decoded EEPROM_READ comes from its opcode and two address bytes. -/
theorem eepromRead_of_decode {op : Byte} (hclass : decodeClass c op = .eepromRead)
    (h : decode c (op :: ps) = .frame i rest) :
    ∃ aH aL, ps = aH :: aL :: rest ∧ i = .eepromRead (assemble aH aL) := by
  simp only [decode, hclass] at h
  split at h
  · cases h
    exact ⟨_, _, rfl, rfl⟩
  · cases h

/-- R93, R95: a decoded EEPROM_WRITE comes from two address bytes, a count of at most 29 and at least that many bytes. -/
theorem eepromWrite_of_decode {op : Byte} (hclass : decodeClass c op = .eepromWrite)
    (h : decode c (op :: ps) = .frame i rest) :
    ∃ aH aL n d, ps = aH :: aL :: n :: (d ++ rest) ∧ i = .eepromWrite (assemble aH aL) n d ∧
      d.length = n.toNat ∧ n.toNat ≤ maxCount := by
  simp only [decode, hclass] at h
  split at h
  · split_ifs at h with hmax hle
    cases h
    exact ⟨_, _, _, _, by rw [List.take_append_drop], rfl, List.length_take_of_le hle, hmax⟩
  · cases h

/-- Settles O4: by the class of the opcode, the stream is the opcode, the fields of its format and the bytes left. -/
theorem encodeOfDecode : Obligations.EncodeOfDecode := by
  intro c i bs rest hc h
  cases bs with
  | nil => cases h
  | cons op ps =>
    cases hclass : decodeClass c op with
    | reset =>
      obtain rfl := decodeClass_reset_iff.1 hclass
      cases decode_reset.symm.trans h
      exact ⟨rfl, rfl⟩
    | eepromWrite =>
      obtain ⟨aH, aL, n, d, rfl, rfl, hlen, hmax⟩ := eepromWrite_of_decode hclass h
      obtain rfl := (decodeClass_eepromWrite_iff hc).1 hclass
      exact ⟨eepromWrite_wellFormed_iff.2 ⟨hlen, hmax⟩, by simp [encode]⟩
    | eepromRead =>
      obtain ⟨aH, aL, rfl, rfl⟩ := eepromRead_of_decode hclass h
      obtain rfl := (decodeClass_eepromRead_iff hc).1 hclass
      exact ⟨rfl, by simp [encode]⟩
    | pollSonar =>
      obtain rfl := (decodeClass_pollSonar_iff hc).1 hclass
      cases (decode_pollSonar hc).symm.trans h
      exact ⟨rfl, rfl⟩
    | unrecognized =>
      cases (decode_unrecognized hclass).symm.trans h
      exact ⟨unrecognized_wellFormed_iff.2 hclass, rfl⟩

/-- Settles O5: a count of 30 or more takes the overflow branch of the EEPROM_WRITE format. -/
theorem overlongWriteNeverCompletes : Obligations.OverlongWriteNeverCompletes := by
  intro c aH aL n ds hc hn
  have hmax : ¬ n.toNat ≤ maxCount := Nat.not_le.2 hn
  exact (decode_eepromWrite hc).trans (if_neg hmax)

/-- Settles O6: each word is decoded under TC. -/
theorem tableWordsDecode : Obligations.TableWordsDecode := by
  refine ⟨?_, ?_, ?_, ?_, ?_⟩ <;> decide

end Sys2Proof
end

section
/-! SUPPORT. A frame on RX, byte by byte (spec/40_frame_accumulator.md R113 to R119): what a parameter byte leaves (O23), and
the run of a whole frame (O37). -/
namespace Sys2Proof.Machine

/-- R93, R95: the frame of a well-formed command, whatever the command. -/
theorem frameShape (i : Instr) : Laws.FrameShape.Statement i := by
  cases i with
  | reset => exact Laws.FrameShape.reset
  | eepromWrite a n d => exact Laws.FrameShape.eepromWrite a n d
  | eepromRead a => exact Laws.FrameShape.eepromRead a
  | pollSonar => exact Laws.FrameShape.pollSonar
  | unrecognized b => exact Laws.FrameShape.unrecognized b

variable {s t u : State} {b : Byte} {i : Instr} {post tail : List Byte}

/-! ### The state a byte is fed to -/

theorem takeHead_acting_frameInv (h : FrameInv s) : FrameInv (takeHead (acting s)) := by
  apply h.congr <;> simp

theorem takeHead_acting_latchInv (h : LatchInv s) : LatchInv (takeHead (acting s)) := by
  apply h.congr <;> simp

/-- The state after the intake of `b`, the byte a READY step takes. -/
def taken (b : Byte) (s : State) : State := intake b (takeHead (acting s))

@[simp] theorem taken_cfg (b : Byte) (s : State) : (taken b s).cfg = s.cfg := by simp [taken]
@[simp] theorem taken_phase (b : Byte) (s : State) : (taken b s).phase = s.phase := by simp [taken]
@[simp] theorem taken_inProgress (b : Byte) (s : State) : (taken b s).inProgress = true := by simp [taken]
@[simp] theorem taken_script (b : Byte) (s : State) : (taken b s).script = s.script.tail := by simp [taken, acting]

theorem taken_of_inProgress (h : s.inProgress = true) :
    taken b s = captureCursor (appendParam b (takeHead (acting s))) :=
  intake_busy (by simpa using h)

theorem taken_countBound (hroom : s.inProgress = true → s.parameterCount < capacity) :
    (taken b s).parameterCount ≤ capacity :=
  intake_countBound (by simpa using hroom)

theorem taken_latchInv (hinv : FrameInv s) (hlatch : LatchInv s)
    (hclass : frameClass (taken b s) = .eepromWrite ∨ frameClass (taken b s) = .eepromRead) : LatchInv (taken b s) :=
  intake_latchInv (takeHead_acting_frameInv hinv) (takeHead_acting_latchInv hlatch) hclass

/-- R113, R115: a byte that is not refused is taken in and evaluated. -/
theorem step_of_room (hl : Live s) (hp : s.phase = .ready) (hr : (nextInputs s).rst = false) (hb : stepByte s = some b)
    (hroom : s.inProgress = true → s.parameterCount < capacity) : step s = evaluate (taken b s) := by
  have hfull : ¬ ((takeHead (acting s)).inProgress && bufferFull (takeHead (acting s))) = true := by
    simpa [bufferFull] using hroom
  rw [ready_step hl hp hr hb, feed, if_neg hfull]
  rfl

/-! ### What the evaluation leaves of the bytes taken -/

/-- The registers the bytes of a frame are latched in are the same in `t` as in `s`, and events have been added only. -/
structure KeepsBytes (s t : State) : Prop where
  opcode : t.currentOpcode = s.currentOpcode
  buf : t.buf = s.buf
  events : ∃ es, t.events = s.events ++ es

theorem KeepsBytes.refl (s : State) : KeepsBytes s s := ⟨rfl, rfl, [], by simp⟩

/-- Only EEPROM_WRITE latches operands (log 12). -/
theorem exec_keepsBytes (hi : ∀ a n d, i ≠ .eepromWrite a n d) (h : exec i s = .next t) : KeepsBytes s t := by
  cases i with
  | eepromWrite a n d => exact absurd rfl (hi a n d)
  | eepromRead a =>
    rcases execEepromRead_cases a s with ⟨_, hx⟩ | ⟨_, hx⟩ <;> rw [hx] at h <;> cases h
    · exact ⟨rfl, rfl, _, rfl⟩
    · exact ⟨rfl, rfl, [], by simp⟩
  | reset | pollSonar | unrecognized b => cases h; exact ⟨rfl, rfl, _, rfl⟩

/-- R119: the evaluation of a frame whose registers are latched writes none of them again. -/
theorem evaluate_keepsBytes (hc : u.cfg.wellFormed = true) (hlatch : LatchInv u) (hprog : u.inProgress = true)
    (hready : u.phase = .ready) (hbound : u.parameterCount ≤ capacity) (h : evaluate u = .next t) : KeepsBytes u t := by
  rcases evaluate_next h with ⟨_, _, hx⟩ | ⟨_, _, hx⟩ | ⟨_, _, rfl⟩ | ⟨_, hx⟩ | ⟨_, _, rfl⟩ | ⟨_, _, hx⟩ |
    ⟨_, _, rfl⟩ | ⟨_, _, rfl⟩ | ⟨hclass, hdone, hx⟩
  · exact exec_keepsBytes (by simp) hx
  · exact exec_keepsBytes (by simp) hx
  · exact ⟨rfl, rfl, [], by simp⟩
  · exact exec_keepsBytes (by simp) hx
  · exact .refl _
  · exact exec_keepsBytes (by simp) hx
  · exact ⟨rfl, rfl, _, rfl⟩
  · exact .refl _
  · rw [execEepromWrite_of_latchInv hc hlatch hprog hready hbound hclass hdone] at hx
    cases hx
    exact ⟨rfl, rfl, _, rfl⟩

/-- Settles O23: the byte is appended to the buffer, and the evaluation that follows writes no latched register. -/
theorem parameterByteIsData : Obligations.ParameterByteIsData := by
  intro s t b hinv hlatch hp hprog hroom hr hb h
  have hlive := (step_next h).1
  rw [step_of_room hlive hp hr hb fun _ => hroom] at h
  have hclass : frameClass (taken b s) = frameClass s := by simp [taken, frameClass_intake, hprog]
  have hlatch' : LatchInv (taken b s) := taken_latchInv hinv hlatch (hclass ▸ hlatch.inFlightClass hprog)
  obtain ⟨_, _, _, _, _, _, _, htake, _⟩ := evaluate_keeps h
  obtain ⟨hop, hbuf, es, hev⟩ := evaluate_keepsBytes (by simpa using hlive.1) hlatch' (by simp) (by simpa using hp)
    (taken_countBound fun _ => hroom) h
  rw [taken_of_inProgress hprog] at hop hbuf hev htake
  exact ⟨by simpa using hop, by simpa using htake, by simp [hbuf], fun k hk hne => by simp [hbuf, hne.symm], es,
    by simpa using hev⟩

/-! ### The bytes of the frame in flight -/

theorem params_length (h : s.parameterCount ≤ capacity) : (params s).length = s.parameterCount := by
  simpa [params] using h

theorem params_getElem? {k : Nat} (h : k < s.parameterCount) : (params s)[k]? = bufByte? s k := by
  simp [params, bufByte?, h]

/-- R117: an appended byte is one more parameter. -/
theorem params_appendParam (hroom : s.parameterCount < capacity) : params (appendParam b s) = params s ++ [b] := by
  apply List.ext_getElem?
  intro k
  have hlen : (params s).length = s.parameterCount := params_length hroom.le
  have hlen' : (params (appendParam b s)).length = s.parameterCount + 1 := params_length hroom
  rcases lt_trichotomy k s.parameterCount with hk | rfl | hk
  · rw [List.getElem?_append_left (by omega), params_getElem? hk, params_getElem? (Nat.lt_succ_of_lt hk)]
    simp [bufByte?, hk.ne']
  · rw [List.getElem?_append_right hlen.le, params_getElem? (Nat.lt_succ_self _)]
    simp [bufByte?, hlen, hroom]
  · rw [List.getElem?_eq_none (by omega), List.getElem?_eq_none (by simp; omega)]

@[simp] theorem params_captureCursor (s : State) : params (captureCursor s) = params s := by
  simp [params]

/-- R114, R117: a byte taken in is the next byte of the frame in flight. -/
theorem frameBytes_intake (hroom : s.inProgress = true → s.parameterCount < capacity) :
    frameBytes (intake b s) = frameBytes s ++ [b] := by
  cases hprog : s.inProgress with
  | false => simp [frameBytes, params, intake_idle hprog, hprog]
  | true => simp [frameBytes, intake_busy hprog, hprog, params_appendParam (hroom hprog)]

theorem frameBytes_of_inProgress (h : s.inProgress = true) : frameBytes s = s.currentOpcode.bits :: params s := by
  simp [frameBytes, h]

/-- A frame that is idle, or whose bytes so far and one more are no longer than a command's frame, has room. -/
theorem room_of_frameBytes (hi : i.wellFormed s.cfg = true) (hbound : s.parameterCount ≤ capacity)
    (h : frameBytes s ++ b :: post = encode s.cfg i) : s.inProgress = true → s.parameterCount < capacity := by
  intro hprog
  have hlen := congrArg List.length h
  obtain ⟨_, _, hmax⟩ := frameShape i s.cfg hi
  simp only [frameBytes, hprog, if_true, List.length_append, List.length_cons, params_length hbound] at hlen
  omega

/-- R25: the parameters taken stand in the buffer in their order. -/
theorem getElem?_of_params_append {bs : List Byte} (hbound : s.parameterCount ≤ capacity) (h : params s ++ post = bs)
    {k : Nat} (hk : k < s.parameterCount) : bs[k]? = some (s.buf[k]'(by omega)).bits := by
  have hlen := params_length hbound
  rw [← h, List.getElem?_append_left (by omega), params_getElem? hk, bufByte?, Vector.getElem?_eq_getElem (by omega)]
  rfl

/-- R94: the address operand of a frame with its two address bytes. -/
theorem operandAddress_of_params_append {aH aL : Byte} {ps : List Byte} (hbound : s.parameterCount ≤ capacity)
    (h : params s ++ post = aH :: aL :: ps) (hcount : 2 ≤ s.parameterCount) : operandAddress s = assemble aH aL := by
  have hH := getElem?_of_params_append hbound h (k := 0) (by omega)
  have hL := getElem?_of_params_append hbound h (k := 1) (by omega)
  simp only [List.getElem?_cons_zero, List.getElem?_cons_succ, Option.some.injEq] at hH hL
  rw [operandAddress, hH, hL]

/-- R94: the count operand of a frame with its count byte. -/
theorem operandCount_of_params_append {aH aL n : Byte} {ps : List Byte} (hbound : s.parameterCount ≤ capacity)
    (h : params s ++ post = aH :: aL :: n :: ps) (hcount : 3 ≤ s.parameterCount) : operandCount s = n := by
  have hn := getElem?_of_params_append hbound h (k := 2) (by omega)
  simp only [List.getElem?_cons_zero, List.getElem?_cons_succ, Option.some.injEq] at hn
  exact hn.symm

/-- R94: the data operand is what follows the first three parameters. -/
theorem operandData_eq_drop_params {n : Byte} (hcount : s.parameterCount = n.toNat + 3) :
    operandData s n = (params s).drop 3 := by
  rw [params, hcount, ← List.map_drop, List.drop_take, Nat.add_sub_cancel]
  rfl

/-! ### The evaluation of a command's frame (R119) -/

/-- R26, R27: past its count byte the cursor of an EEPROM_WRITE frame holds the address and the count of the frame. -/
theorem LatchInv.cursor_of_params_append {aH aL n : Byte} {ps : List Byte} (h : LatchInv s)
    (hprog : s.inProgress = true) (hclass : frameClass s = .eepromWrite) (hbound : s.parameterCount ≤ capacity)
    (hbytes : params s ++ post = aH :: aL :: n :: ps) (hcount : 3 ≤ s.parameterCount) :
    s.curCount.bits = n ∧ s.curAddr.bits = assemble aH aL := by
  obtain ⟨hn, ha⟩ := h.cursorOperands (h.captured hprog hclass hcount)
  rw [hn, ha]
  exact ⟨operandCount_of_params_append hbound hbytes hcount,
    operandAddress_of_params_append hbound hbytes (by omega)⟩

theorem writeComplete_iff :
    writeComplete s = true ↔ 3 ≤ s.parameterCount ∧ s.parameterCount = s.curCount.bits.toNat + 3 := by
  simp [writeComplete]

/-- R142, R143: an EEPROM_WRITE frame is complete with the last of its declared data bytes, and not before. -/
theorem writeComplete_iff_of_params_append {aH aL n : Byte} {d : List Byte} (hlatch : LatchInv s)
    (hprog : s.inProgress = true) (hclass : frameClass s = .eepromWrite) (hbound : s.parameterCount ≤ capacity)
    (hd : d.length = n.toNat) (h : params s ++ post = aH :: aL :: n :: d) : writeComplete s = true ↔ post = [] := by
  have hlen := congrArg List.length h
  simp only [List.length_append, List.length_cons, params_length hbound, hd] at hlen
  rw [writeComplete_iff, ← List.length_eq_zero_iff]
  by_cases h3 : 3 ≤ s.parameterCount
  · obtain ⟨hn, _⟩ := hlatch.cursor_of_params_append hprog hclass hbound h h3
    rw [hn]
    omega
  · omega

/-- R119, R142: an EEPROM_WRITE frame runs its command once it is complete. -/
theorem evaluate_eepromWrite {aH aL n : Byte} {d : List Byte} (hlatch : LatchInv u) (hprog : u.inProgress = true)
    (hclass : frameClass u = .eepromWrite) (hbound : u.parameterCount ≤ capacity) (hd : d.length = n.toNat)
    (h : params u ++ post = aH :: aL :: n :: d) :
    evaluate u = if post = [] then exec (.eepromWrite (assemble aH aL) n d) u else .next u := by
  have hdone := writeComplete_iff_of_params_append hlatch hprog hclass hbound hd h
  by_cases hpost : post = []
  · subst hpost
    obtain ⟨h3, hcount⟩ := writeComplete_iff.1 (hdone.2 rfl)
    obtain ⟨hn, ha⟩ := hlatch.cursor_of_params_append hprog hclass hbound h h3
    rw [List.append_nil] at h
    rw [hn] at hcount
    simp [evaluate, hclass, hdone, hn, ha, operandData_eq_drop_params hcount, h]
  · simp [evaluate, hclass, hdone, hpost]

/-- R150: an EEPROM_READ frame completes with its second address byte, and not before. -/
theorem evaluate_eepromRead {aH aL : Byte} (hclass : frameClass u = .eepromRead) (hbound : u.parameterCount ≤ capacity)
    (h : params u ++ post = [aH, aL]) :
    evaluate u = if post = [] then exec (.eepromRead (assemble aH aL)) u else .next u := by
  have hlen := congrArg List.length h
  simp only [List.length_append, List.length_cons, params_length hbound, List.length_nil] at hlen
  by_cases hpost : post = []
  · subst hpost
    have hcount : u.parameterCount = 2 := hlen
    simp [evaluate, hclass, readGoesOn, readComplete, hcount,
      operandAddress_of_params_append hbound h hcount.ge]
  · have hpos := List.length_pos_iff.2 hpost
    have hcount : u.parameterCount < 2 := by omega
    simp [evaluate, hclass, readGoesOn, hcount, hpost]

/-- R140, R160, R164: the other three commands complete on their opcode. -/
theorem evaluate_opcodeOnly (hi : i = .reset ∨ i = .pollSonar ∨ i = .unrecognized u.currentOpcode.bits)
    (hclass : frameClass u = i.commandClass) (hcount : u.parameterCount = 0) : evaluate u = exec i u := by
  rcases hi with rfl | rfl | rfl <;> simp only [Instr.commandClass] at hclass <;>
    simp [evaluate, hclass, opcodeAlone, hcount]

/-- R119: the evaluation of a frame that the bytes `post` would complete runs its command if there are none, and lets it
go on otherwise. -/
theorem evaluate_of_frameBytes (hc : u.cfg.wellFormed = true) (hi : i.wellFormed u.cfg = true)
    (hprog : u.inProgress = true) (hbound : u.parameterCount ≤ capacity)
    (hlatch : frameClass u = .eepromWrite → LatchInv u) (h : frameBytes u ++ post = encode u.cfg i) :
    evaluate u = if post = [] then exec i u else .next u := by
  rw [frameBytes_of_inProgress hprog, List.cons_append] at h
  have hop : u.currentOpcode.bits = i.opcodeByte u.cfg := by simpa [← h] using (frameShape i u.cfg hi).1
  have hclass : frameClass u = i.commandClass := by rw [frameClass, hop, decodeClass_opcodeByte hc hi]
  cases i with
  | eepromWrite a n d =>
    obtain ⟨_, hparams⟩ := List.cons_eq_cons.1 h
    rw [evaluate_eepromWrite (hlatch hclass) hprog hclass hbound (eepromWrite_wellFormed_iff.1 hi).1 hparams,
      assemble_hi_lo]
  | eepromRead a =>
    obtain ⟨_, hparams⟩ := List.cons_eq_cons.1 h
    rw [evaluate_eepromRead hclass hbound hparams, assemble_hi_lo]
  | reset | pollSonar | unrecognized b =>
    obtain ⟨_, hparams⟩ := List.cons_eq_cons.1 h
    obtain ⟨hnone, hpost⟩ := List.append_eq_nil_iff.1 hparams
    have hcount : u.parameterCount = 0 := by rw [← params_length hbound, hnone, List.length_nil]
    rw [if_pos hpost]
    exact evaluate_opcodeOnly (by simp [hop, Instr.opcodeByte]) hclass hcount

/-! ### A frame's bytes, one a step -/

/-- What the bytes of a frame leave alone before its command runs. -/
structure KeepsOutside (s u : State) : Prop where
  cfg : u.cfg = s.cfg
  phase : u.phase = s.phase
  faulted : u.faulted = s.faulted
  mem : u.mem = s.mem
  tx : u.tx = s.tx
  pollArmed : u.pollArmed = s.pollArmed
  switchThreshold : u.switchThreshold = s.switchThreshold
  sonarDivider : u.sonarDivider = s.sonarDivider
  thresholdSonar : u.thresholdSonar = s.thresholdSonar
  thresholdIR : u.thresholdIR = s.thresholdIR

theorem KeepsOutside.trans (h : KeepsOutside s u) (h' : KeepsOutside u t) : KeepsOutside s t := by
  constructor
  · exact h'.cfg.trans h.cfg
  · exact h'.phase.trans h.phase
  · exact h'.faulted.trans h.faulted
  · exact h'.mem.trans h.mem
  · exact h'.tx.trans h.tx
  · exact h'.pollArmed.trans h.pollArmed
  · exact h'.switchThreshold.trans h.switchThreshold
  · exact h'.sonarDivider.trans h.sonarDivider
  · exact h'.thresholdSonar.trans h.thresholdSonar
  · exact h'.thresholdIR.trans h.thresholdIR

theorem taken_keepsOutside (b : Byte) (h : (nextInputs s).pollClear = false) : KeepsOutside s (taken b s) := by
  constructor <;> simp [taken, h]

theorem taken_rx {bs : List Byte} (harr : (nextInputs s).arrivals = []) (h : s.rx = b :: bs) :
    (taken b s).rx = bs := by
  simp [taken, acting, harr, h]

theorem frameBytes_taken (hroom : s.inProgress = true → s.parameterCount < capacity) :
    frameBytes (taken b s) = frameBytes s ++ [b] := by
  rw [taken, frameBytes_intake (by simpa using hroom)]
  simp [frameBytes, params]

/-- R113, R119: a READY step that takes the next byte of a command's frame runs the command if the byte is the last, and
otherwise leaves the frame in flight. -/
theorem step_of_frameBytes (hl : Live s) (hinv : FrameInv s) (hlatch : LatchInv s) (hp : s.phase = .ready)
    (hr : (nextInputs s).rst = false) (hb : stepByte s = some b) (hi : i.wellFormed s.cfg = true)
    (h : frameBytes s ++ b :: post = encode s.cfg i) :
    step s = if post = [] then exec i (taken b s) else .next (taken b s) := by
  have hroom := room_of_frameBytes hi hinv.countBound h
  rw [step_of_room hl hp hr hb hroom]
  exact evaluate_of_frameBytes (by simpa using hl.1) (by simpa using hi) (taken_inProgress b s) (taken_countBound hroom)
    (fun hclass => taken_latchInv hinv hlatch (.inl hclass)) (by simpa [frameBytes_taken hroom] using h)

theorem run_one (s : State) : Sys2Proof.core.run 1 s = step s := by
  have hc : Sys2Proof.core.step s = step s := rfl
  cases h : step s <;> simp only [Host.Core.run, hc, h] <;> rfl

/-- R93, R113: from any point of a command's frame, the run over the rest of its bytes on RX is exec of the command. -/
theorem run_of_frameBytes {is rest : List Inputs} (hl : Live s) (hinv : FrameInv s) (hlatch : LatchInv s)
    (hp : s.phase = .ready) (hi : i.wellFormed s.cfg = true) (hpost : post ≠ [])
    (h : frameBytes s ++ post = encode s.cfg i) (hrx : s.rx = post ++ tail) (hscript : s.script = is ++ rest)
    (hlen : is.length = post.length) (hoffers : ∀ x ∈ is, Offers x) :
    ∃ u, Sys2Proof.core.run is.length s = exec i u ∧ KeepsOutside s u ∧ u.rx = tail ∧ u.script = rest := by
  induction post generalizing s is with
  | nil => exact absurd rfl hpost
  | cons b post ih =>
    obtain ⟨x, is, rfl⟩ := List.exists_cons_of_length_eq_add_one hlen
    have hx : nextInputs s = x := nextInputs_cons hscript
    obtain ⟨hrst, hclear, harr, hoffer⟩ : Offers (nextInputs s) := hx ▸ hoffers x (List.mem_cons_self ..)
    have hb : stepByte s = some b := by simp [stepByte, offered, acting, hoffer, hrx]
    have hstep := step_of_frameBytes hl hinv hlatch hp hrst hb hi h
    have hkeeps := taken_keepsOutside b hclear
    have htakenRx := taken_rx harr hrx
    have htakenScript : (taken b s).script = is ++ rest := by simp [hscript]
    have hlen : is.length = post.length := by simpa using hlen
    by_cases hlast : post = []
    · subst hlast
      obtain rfl := List.length_eq_zero_iff.1 hlen
      rw [if_pos rfl] at hstep
      exact ⟨_, (run_one s).trans hstep, hkeeps, htakenRx, htakenScript⟩
    · rw [if_neg hlast] at hstep
      have hfault : (taken b s).faulted = none := hkeeps.faulted.trans hl.2
      have hframe : frameBytes (taken b s) ++ post = encode (taken b s).cfg i := by
        rw [frameBytes_taken (room_of_frameBytes hi hinv.countBound h), hkeeps.cfg, ← h, List.append_assoc]
        rfl
      obtain ⟨u, hrun, hkeeps', hrx', hscript'⟩ := ih ⟨hkeeps.cfg ▸ hl.1, hfault⟩
        (frameInvariantsKept s _ hinv hstep hfault) (latchInvariantsKept s _ hinv hlatch hstep hfault)
        (hkeeps.phase.trans hp) (hkeeps.cfg ▸ hi) hlast hframe htakenRx htakenScript hlen
        fun x hx => hoffers x (List.mem_cons_of_mem _ hx)
      exact ⟨u, (run_succ hstep).trans hrun, hkeeps.trans hkeeps', hrx', hscript'⟩

/-- Settles O37: an idle state is at the start of the frame, none of whose bytes it has taken. -/
theorem frameOnRxRunsItsCommand : Obligations.FrameOnRxRunsItsCommand := by
  intro s i tail is rest hl hinv ⟨hp, hidle⟩ hi hrx hscript hlen hoffers
  obtain ⟨hcount, hvalid⟩ := hinv.idle hidle
  obtain ⟨hhead, hframe, _⟩ := frameShape i s.cfg hi
  have hne : encode s.cfg i ≠ [] := fun he => by simp [he] at hhead
  obtain ⟨u, hrun, hkeeps, hrx', hscript'⟩ := run_of_frameBytes hl hinv (LatchInv.of_idle hidle hcount hvalid) hp hi hne
    (by simp [frameBytes, hidle]) hrx hscript (hlen.trans hframe.symm) hoffers
  exact ⟨u, hrun, hkeeps.cfg, hkeeps.phase.trans hp, hkeeps.faulted.trans hl.2, hkeeps.mem, hkeeps.tx, hrx',
    hkeeps.pollArmed, hscript', hkeeps.switchThreshold, hkeeps.sonarDivider, hkeeps.thresholdSonar, hkeeps.thresholdIR⟩

end Sys2Proof.Machine
end

section
/-! SUPPORT. The write sequence of an EEPROM_WRITE with every write acknowledged (spec/42_write_sequencer.md R171 to R173), and
SET_CONFIG (spec/30_encoding.md R99, O39). -/
namespace Sys2Proof.Machine

variable {s t : State} {b : Byte} {d : List Byte}

/-! ### The two steps of the sequence -/

theorem bufByte?_eq_some_iff {k : Nat} : bufByte? s k = some b ↔ ∃ h : k < capacity, s.buf[k].bits = b := by
  simp [bufByte?, Vector.getElem?_eq_some_iff]

/-- The state after the acknowledged write of `b` (R172). -/
def written (b : Byte) (s : State) : State :=
  emit { acting s with mem := s.mem.write (writeAddr s).toNat b, curOff := .held (s.curOff.bits + 1) }
    (.writeAck (writeAddr s) b)

/-- R172: an acknowledged write step stores the data byte at the offset. -/
theorem wseq_ack_step (hl : Live s) (hp : s.phase = .wseq) (hacks : Acks (nextInputs s))
    (hlt : s.curOff.bits < s.curCount.bits) (hb : bufByte? s (3 + s.curOff.bits.toNat) = some b)
    (hin : (writeAddr s).toNat < s.cfg.storeSize) : step s = .next (written b s) := by
  obtain ⟨hr, _, hack⟩ := hacks
  obtain ⟨hk, rfl⟩ := bufByte?_eq_some_iff.1 hb
  rw [wseq_step hl hp hr, hack]
  rcases seqStep_cases true (acting s) with ⟨h, _⟩ | ⟨h, _⟩ | ⟨_, hq⟩
  · rw [acting_curOff, acting_curCount] at h
    exact absurd h (BitVec.ne_of_lt hlt)
  · rw [acting_curOff, acting_curCount] at h
    bv_omega
  · rw [hq]
    rcases writeStep_cases true (acting s) with ⟨hout, _⟩ | ⟨hout, _⟩ | ⟨_, _, _, hw⟩ | ⟨_, _, hack, _⟩
    · rw [acting_curOff] at hout
      omega
    · rw [writeAddr_acting, acting_cfg] at hout
      omega
    · rw [hw]
      simp [written]
    · cases hack

/-- R173: with every data byte written, the finishing step loads the cache with the words of the store. -/
theorem wseq_finish_step (hl : Live s) (hp : s.phase = .wseq) (hr : (nextInputs s).rst = false)
    (hdone : s.curOff.bits = s.curCount.bits) {w0 w1 w2 w3 : Word} (hw : configWords s = some (w0, w1, w2, w3)) :
    step s = .next { finish (emit (emit (setCache (acting s) w0 w1 w2 w3) (.refresh w0 w1 w2 w3))
      (.writeDone s.curAddr.bits s.curCount.bits)) with phase := .ready } := by
  have hall : allWritten (acting s) = true := by simp [allWritten, hdone]
  have hw' : configWords (acting s) = some (w0, w1, w2, w3) := by rw [configWords_acting, hw]
  rw [wseq_step hl hp hr, seqStep, if_pos hall]
  rcases finishWriteSequence_cases (acting s) with ⟨hnone, _⟩ | ⟨_, _, _, _, hsome, hfin⟩
  · simp [hw'] at hnone
  · cases hw'.symm.trans hsome
    rw [hfin, acting_curAddr, acting_curCount]

/-! ### The whole sequence -/

/-- The store with the given bytes written from address `a` on, modulo 2^16 (R66). -/
def storeBytes (m : Memory) (a : Word) : List Byte → Memory
  | [] => m
  | b :: bs => storeBytes (m.write a.toNat b) (a + 1) bs

/-- The sequencer of a live state has exactly the bytes `d` left to write, all at addresses that exist. -/
structure WritesLeft (s : State) (d : List Byte) : Prop where
  live : Live s
  phase : s.phase = .wseq
  count : s.curOff.bits.toNat + d.length = s.curCount.bits.toNat
  data : ∀ k, k < d.length → bufByte? s (3 + s.curOff.bits.toNat + k) = d[k]?
  inRange : ∀ k, k < d.length → (writeAddr s + BitVec.ofNat 16 k).toNat < s.cfg.storeSize

/-- R66, R172: the write of the next byte moves the write address on by one. -/
theorem writeAddr_written (h : s.curOff.bits < s.curCount.bits) : writeAddr (written b s) = writeAddr s + 1 := by
  have hoff : (s.curOff.bits + 1).setWidth 16 = s.curOff.bits.setWidth 16 + 1 := by bv_omega
  simp only [writeAddr, written, emit_curAddr, emit_curOff, acting_curAddr, held_bits, hoff, BitVec.add_assoc]

/-- R172: the step that writes the first of the bytes left. -/
theorem WritesLeft.step_written (h : WritesLeft s (b :: d)) (hacks : Acks (nextInputs s)) :
    step s = .next (written b s) ∧ WritesLeft (written b s) d ∧ writeAddr (written b s) = writeAddr s + 1 := by
  have hcount := h.count
  rw [List.length_cons] at hcount
  have hlt : s.curOff.bits < s.curCount.bits := by bv_omega
  have hoff : (s.curOff.bits + 1).toNat = s.curOff.bits.toNat + 1 := by bv_omega
  have haddr := writeAddr_written (b := b) hlt
  refine ⟨wseq_ack_step h.live h.phase hacks hlt (h.data 0 (by simp)) (by simpa using h.inRange 0 (by simp)), ?_, haddr⟩
  constructor
  · exact ⟨by simpa [written] using h.live.1, by simpa [written] using h.live.2⟩
  · simpa [written] using h.phase
  · simp only [written, emit_curOff, emit_curCount, acting_curCount, held_bits, hoff]
    omega
  · intro k hk
    have hdata := h.data (k + 1) (by simpa using hk)
    simp only [written, bufByte?, emit_curOff, emit_buf, acting_buf, held_bits, hoff] at hdata ⊢
    rwa [show 3 + (s.curOff.bits.toNat + 1) + k = 3 + s.curOff.bits.toNat + (k + 1) by omega]
  · intro k hk
    have hin := h.inRange (k + 1) (by simpa using hk)
    rw [haddr, BitVec.add_assoc, show (1 : Word) + BitVec.ofNat 16 k = BitVec.ofNat 16 (k + 1) by bv_omega]
    simpa [written] using hin

/-- The word of the store at a configuration field's address (R67, R69). -/
def storedWord (s : State) (f : ConfigField) : Word :=
  assemble (s.mem.read (configAddr s.cfg f).toNat) (s.mem.read (configAddr s.cfg f + 1).toNat)

/-- What the sequence that writes `d` from `s` on leaves (R144): the bytes in the store, the cache a Refresh of it, and the
dispatcher idle. -/
structure SequenceEffect (s t : State) (d : List Byte) : Prop where
  cfg : t.cfg = s.cfg
  mem : t.mem = storeBytes s.mem (writeAddr s) d
  switchThreshold : t.switchThreshold = .held (storedWord t .switchThreshold)
  sonarDivider : t.sonarDivider = .held (storedWord t .sonarDivider)
  thresholdSonar : t.thresholdSonar = .held (storedWord t .thresholdSonar)
  thresholdIR : t.thresholdIR = .held (storedWord t .thresholdIR)
  phase : t.phase = .ready
  inProgress : t.inProgress = false
  parameterCount : t.parameterCount = 0
  curValid : t.curValid = false
  faulted : t.faulted = none
  tx : t.tx = s.tx
  pollArmed : t.pollArmed = s.pollArmed

/-- Every configuration byte exists (R67). -/
def ConfigInStore (c : Config) : Prop :=
  ∀ f, (configAddr c f).toNat < c.storeSize ∧ (configAddr c f + 1).toNat < c.storeSize

/-- R173: with nothing left to write the next step ends the sequence. -/
theorem WritesLeft.step_finish (h : WritesLeft s []) (hacks : Acks (nextInputs s)) (hc : ConfigInStore s.cfg) :
    ∃ t, step s = .next t ∧ SequenceEffect s t [] := by
  obtain ⟨hr, hclear, _⟩ := hacks
  have hdone : s.curOff.bits = s.curCount.bits := BitVec.eq_of_toNat_eq h.count
  refine ⟨_, wseq_finish_step h.live h.phase hr hdone (configWords_of_inStore hc), ?_⟩
  constructor <;> simp [storeBytes, storedWord, hclear, h.live.2]

/-- R171 to R173: with every write acknowledged the sequence takes a step for each byte and one to finish. -/
theorem WritesLeft.run_sequence {is rest : List Inputs} (h : WritesLeft s d) (hc : ConfigInStore s.cfg)
    (hscript : s.script = is ++ rest) (hlen : is.length = d.length + 1) (hacks : ∀ i ∈ is, Acks i) :
    ∃ t, Sys2Proof.core.run is.length s = .next t ∧ SequenceEffect s t d := by
  induction d generalizing s is with
  | nil =>
    obtain ⟨x, rfl⟩ := List.length_eq_one_iff.1 hlen
    have hx : Acks (nextInputs s) := nextInputs_cons hscript ▸ hacks x (List.mem_singleton_self x)
    obtain ⟨t, hstep, heffect⟩ := h.step_finish hx hc
    exact ⟨t, (run_one s).trans hstep, heffect⟩
  | cons b d ih =>
    obtain ⟨x, is, rfl⟩ := List.exists_cons_of_length_eq_add_one hlen
    have hx : Acks (nextInputs s) := nextInputs_cons hscript ▸ hacks x (List.mem_cons_self ..)
    obtain ⟨hstep, hleft, haddr⟩ := h.step_written hx
    have hcfg : (written b s).cfg = s.cfg := by simp [written]
    obtain ⟨t, hrun, heffect⟩ := ih hleft (hcfg ▸ hc) (by simp [written, acting, hscript]) (by simpa using hlen)
      fun i hi => hacks i (List.mem_cons_of_mem _ hi)
    refine ⟨t, (run_succ hstep).trans hrun, { heffect with cfg := ?_, mem := ?_, tx := ?_, pollArmed := ?_ }⟩
    · exact heffect.cfg.trans hcfg
    · exact heffect.mem.trans (by rw [haddr]; rfl)
    · exact heffect.tx.trans (by simp [written])
    · exact heffect.pollArmed.trans (by simp [written, hx.2.1])

/-- The state in which EEPROM_WRITE starts the sequencer (R143). -/
def writeStarted (a : Word) (n : Byte) (d : List Byte) (s : State) : State :=
  emit { latchWrite a n d s with phase := .wseq } (.writeStart a n)

@[simp] theorem writeStarted_cfg (a : Word) (n : Byte) : (writeStarted a n d s).cfg = s.cfg := rfl

@[simp] theorem writeAddr_writeStarted (a : Word) (n : Byte) : writeAddr (writeStarted a n d s) = a := by
  simp [writeAddr, writeStarted]

/-- R143: EEPROM_WRITE starts the sequencer with all its data bytes left to write. -/
theorem writesLeft_writeStarted {a : Word} {n : Byte} (hl : Live s)
    (hi : (Instr.eepromWrite a n d).wellFormed s.cfg = true)
    (hin : ∀ k, k < d.length → (a + BitVec.ofNat 16 k).toNat < s.cfg.storeSize) :
    WritesLeft (writeStarted a n d s) d := by
  obtain ⟨hlen, hmax⟩ := eepromWrite_wellFormed_iff.1 hi
  refine ⟨hl, rfl, by simpa [writeStarted] using hlen, fun k hk => ?_, by simpa using hin⟩
  have hcap : 3 + k < capacity := by
    simp only [capacity, maxCount] at hmax ⊢
    omega
  have hbuf := storeFrom_getElem (hiByte a :: loByte a :: n :: d) s.buf 0 (3 + k) hcap
  rw [dif_pos (by simp only [List.length_cons]; omega)] at hbuf
  rw [List.getElem?_eq_getElem hk, bufByte?_eq_some_iff]
  exact ⟨by simpa [writeStarted] using hcap, (congrArg Reg.bits hbuf).trans (by simp [Nat.add_comm 3 k])⟩

/-! ### SET_CONFIG -/

/-- R66, R69: a word's two bytes written at an address and the next are read back as the word. -/
theorem assemble_read_storeBytes {m : Memory} (a w : Word) (h : Memory.wf m = true) :
    assemble ((storeBytes m a [hiByte w, loByte w]).read a.toNat)
      ((storeBytes m a [hiByte w, loByte w]).read (a + 1).toNat) = w := by
  have hne : a.toNat ≠ (a + 1).toNat := by bv_omega
  simp only [storeBytes]
  rw [read_write_other _ hne, read_write_same _ _ h, read_write_same _ _ (write_wf _ _ h), assemble_hi_lo]

/-- Settles O39: the sequence writes the field's own two bytes, and its Refresh reads them. -/
theorem setConfigSetsItsField : Obligations.SetConfigSetsItsField := by
  intro f w s u is rest hl _ _ hwf hx hscript hlen hacks hc
  refine ⟨rfl, ?_⟩
  obtain rfl : writeStarted (configAddr s.cfg f) 2 [hiByte w, loByte w] s = u := by cases hx; rfl
  have hleft := writesLeft_writeStarted (d := [hiByte w, loByte w]) (n := 2) hl rfl
    (a := configAddr s.cfg f) fun k hk => by
      match k, hk with
      | 0, _ => simpa using (hc f).1
      | 1, _ => exact (hc f).2
  obtain ⟨t, hrun, heffect⟩ := hleft.run_sequence hc hscript hlen hacks
  have hword : storedWord t f = w := by
    simp only [storedWord, heffect.cfg, heffect.mem, writeAddr_writeStarted, writeStarted_cfg]
    exact assemble_read_storeBytes _ w hwf
  refine ⟨t, hlen ▸ hrun, ?_⟩
  cases f with
  | switchThreshold => simp [cfgSwitchThreshold, heffect.switchThreshold, hword]
  | sonarDivider => simp [cfgSonarDivider, heffect.sonarDivider, hword]
  | thresholdSonar => simp [cfgThresholdSonar, heffect.thresholdSonar, hword]
  | thresholdIR => simp [cfgThresholdIR, heffect.thresholdIR, hword]

end Sys2Proof.Machine
end

section
/-! SUPPORT. The steps of a live state (spec/40_frame_accumulator.md R110, R111, R113, R124): it always has one (O17), rst
preempts the inputs (O28), and a byte leaves RX only where a READY step takes it (O25, O26); and what `feed` returns for a
command (O54). -/
namespace Sys2Proof.Machine

variable {s t : State}

/-! ### That a step exists, and what rst preempts -/

theorem phaseStep_answers (i : Inputs) (s : State) : ∃ t, phaseStep i s = .next t := by
  unfold phaseStep
  split
  · exact ⟨_, rfl⟩
  · unfold readyStep
    split
    · exact feed_answers _ _
    · exact ⟨_, rfl⟩
  · exact ⟨_, rfl⟩
  · exact ⟨_, rfl⟩

/-- Settles O17: the step is the reset or the phase's action, and each answers a next state. -/
theorem liveStateSteps : Obligations.LiveStateSteps := by
  intro s hl
  rw [step_of_live hl]
  cases hr : (nextInputs s).rst with
  | true => exact ⟨_, stepWith_rst _ hr⟩
  | false =>
    rw [stepWith_noRst _ hr]
    exact phaseStep_answers _ _

/-- Settles O28: the reset reads two fields of the inputs. -/
theorem resetPreemptsInputs : Obligations.ResetPreemptsInputs := by
  intro s i j hi hj hbyte hrx
  rw [stepWith_rst s hi, stepWith_rst s hj]
  simp only [resetStep, resetMemory, hbyte, hrx]

/-! ### RX -/

/-- Settles O25: the READY action with nothing offered leaves the state it acts on. -/
theorem noByteNoChange : Obligations.NoByteNoChange := by
  intro s hl hp hr hb
  have hb : offered (nextInputs s) (settle (nextInputs s) (fresh s)) = none := hb
  rw [step_of_live hl, stepWith_noRst _ hr]
  simp [phaseStep, hp, readyStep, hb, acting]

@[simp] theorem acting_rx (s : State) : (acting s).rx = s.rx ++ (nextInputs s).arrivals := by simp [acting]
@[simp] theorem acting_rxTake (s : State) : (acting s).rxTake = false := by simp [acting]

theorem initStep_keepsRx (s : State) : (initStep s).rx = s.rx ∧ (initStep s).rxTake = s.rxTake := by
  rcases initStep_cases s with ⟨_, h⟩ | ⟨_, _, _, _, _, h⟩ <;> rw [h] <;> exact ⟨rfl, rfl⟩

theorem finishWriteSequence_keepsRx (s : State) :
    (finishWriteSequence s).rx = s.rx ∧ (finishWriteSequence s).rxTake = s.rxTake := by
  rcases finishWriteSequence_cases s with ⟨_, h⟩ | ⟨_, _, _, _, _, h⟩ <;> rw [h] <;> exact ⟨rfl, rfl⟩

theorem writeStep_keepsRx (ack : Bool) (s : State) :
    (writeStep ack s).rx = s.rx ∧ (writeStep ack s).rxTake = s.rxTake := by
  rcases writeStep_cases ack s with ⟨_, h⟩ | ⟨_, h⟩ | ⟨_, _, _, h⟩ | ⟨_, _, _, h⟩ <;> rw [h] <;> exact ⟨rfl, rfl⟩

theorem seqStep_keepsRx (ack : Bool) (s : State) : (seqStep ack s).rx = s.rx ∧ (seqStep ack s).rxTake = s.rxTake := by
  rcases seqStep_cases ack s with ⟨_, h⟩ | ⟨_, h⟩ | ⟨_, h⟩ <;> rw [h]
  · exact finishWriteSequence_keepsRx s
  · exact ⟨rfl, rfl⟩
  · exact writeStep_keepsRx ack s

/-- R113, R119: what a READY step does with the byte it takes leaves the rest of RX alone. -/
theorem feed_takeHead_rx {b : Byte} (hb : stepByte s = some b) (h : feed b (takeHead (acting s)) = .next t) :
    t.rxTake = true ∧ s.rx ++ (nextInputs s).arrivals = b :: t.rx := by
  obtain ⟨_, _, _, _, _, _, hrx, htake, _⟩ := feed_keeps h
  obtain ⟨_, rest, hhead⟩ := offered_some hb
  rw [← acting_rx, hrx, takeHead_rx, hhead]
  exact ⟨htake, rfl⟩

/-- Settles O26: of the step's branches only READY with a byte offered feeds one. -/
theorem bytesAreTakenOnceInOrder : Obligations.BytesAreTakenOnceInOrder := by
  intro s t hr h
  rcases step_cases h with ⟨hrst, _⟩ | ⟨_, hp, rfl⟩ | ⟨_, _, hb, rfl⟩ | ⟨_, hp, b, hb, hfeed⟩ | ⟨_, hp, rfl⟩ |
    ⟨_, hp, rfl⟩
  · simp [hr] at hrst
  · obtain ⟨hrx, htake⟩ := initStep_keepsRx (acting s)
    exact .inr ⟨by simp [htake], by simp [hrx], by simp [hp]⟩
  · exact .inr ⟨acting_rxTake s, acting_rx s, fun _ => hb⟩
  · obtain ⟨htake, hrx⟩ := feed_takeHead_rx hb hfeed
    exact .inl ⟨htake, hp, b, hb, hrx⟩
  · obtain ⟨hrx, htake⟩ := seqStep_keepsRx (nextInputs s).stAck (acting s)
    exact .inr ⟨by simp [htake], by simp [hrx], by simp [hp]⟩
  · exact .inr ⟨acting_rxTake s, acting_rx s, by simp [hp]⟩

/-! ### The outcome of `feed` -/

/-- R125: where a byte was taken, the outcome is that of the last event if no event before it has one. -/
theorem feedOutcome_of_events {es : List Event} {e : Event} (htake : t.rxTake = true)
    (hes : ∀ e ∈ es, e.dispatchOutcome = none) (h : t.events = es ++ [e]) : feedOutcome t = e.dispatchOutcome := by
  rw [feedOutcome, if_pos htake, h, List.findSome?_append, List.findSome?_eq_none_iff.2 hes]
  simp

/-- Settles O54: a command that does not fault records its one event last. -/
theorem feedOutcomeOfCommand : Obligations.FeedOutcomeOfCommand := by
  intro i s t htake hes h hf
  obtain ⟨_, _, _, _, _, _, _, hkept, _⟩ := exec_keeps h
  rw [← hkept] at htake
  cases i with
  | reset | eepromWrite a n d | pollSonar | unrecognized b =>
    cases h
    exact feedOutcome_of_events htake hes rfl
  | eepromRead a =>
    intro hnone
    rcases execEepromRead_cases a s with ⟨_, hread⟩ | ⟨_, hfault⟩
    · rw [hread] at h
      cases h
      exact feedOutcome_of_events htake hes rfl
    · rw [hfault] at h
      cases h
      simp [hnone] at hf

end Sys2Proof.Machine
end

section
/-! SUPPORT. A step that takes a byte, by what the bytes of the frame then decode to (spec/30_encoding.md R95,
spec/40_frame_accumulator.md R113 to R119): a command (O20), no complete frame yet (O21, O22), a byte too many (O24, O38). -/
namespace Sys2Proof.Machine

variable {s t u : State} {b : Byte} {i : Instr} {c : Config} {ps bs post tail : List Byte}

/-- Settles O20: what decodes is the frame of a well-formed command, and the byte is its last. -/
theorem decodedFrameRuns : Obligations.DecodedFrameRuns := by
  intro s b i hl hinv hlatch hp hr hb hdec
  obtain ⟨hi, hbytes⟩ := encodeOfDecode s.cfg i _ [] hl.1 hdec
  rw [List.append_nil] at hbytes
  exact (step_of_frameBytes (post := []) hl hinv hlatch hp hr hb hi hbytes.symm).trans (if_pos rfl)

/-! ### Streams that hold no complete frame yet (R95) -/

/-- R93, R95: a stream is short of a frame while an EEPROM_READ has fewer than two parameters, or an EEPROM_WRITE fewer
than its count byte asks for, of which at most 30 are waited for. -/
theorem decode_eq_needMore_iff {op : Byte} :
    decode c (op :: ps) = .needMore ↔
      decodeClass c op = .eepromRead ∧ ps.length < 2 ∨
      decodeClass c op = .eepromWrite ∧ ∀ n, ps[2]? = some n → ps.length < 3 + min n.toNat overflowCount := by
  cases hclass : decodeClass c op with
  | reset | pollSonar | unrecognized => simp [decode, hclass]
  | eepromRead =>
    match ps with
    | [] | [_] | _ :: _ :: _ => simp [decode, hclass]
  | eepromWrite =>
    match ps with
    | [] | [_] | [_, _] => simp [decode, hclass]
    | _ :: _ :: n :: ds =>
      have hoverflow : overflowCount = maxCount + 1 := rfl
      simp only [decode, hclass]
      split_ifs <;> simp <;> omega

/-- R95: such a stream is at most 33 bytes long. -/
theorem length_le_of_decode_needMore (h : decode c bs = .needMore) : bs.length ≤ capacity + 1 := by
  cases bs with
  | nil => simp
  | cons op ps =>
    rw [List.length_cons, Nat.add_le_add_iff_right]
    rcases decode_eq_needMore_iff.1 h with ⟨_, hlen⟩ | ⟨_, hlen⟩
    · exact hlen.le.trans (by decide)
    · by_cases h3 : 2 < ps.length
      · have := hlen _ (List.getElem?_eq_getElem h3)
        simp only [overflowCount, maxCount, capacity] at this ⊢
        omega
      · exact (Nat.not_lt.1 h3).trans (by decide)

/-- A stream that starts one with no complete frame has none either. -/
theorem decode_needMore_of_append (h : decode c (bs ++ post) = .needMore) : decode c bs = .needMore := by
  cases bs with
  | nil => rfl
  | cons op ps =>
    rw [List.cons_append, decode_eq_needMore_iff] at h
    rw [decode_eq_needMore_iff]
    have hle : ps.length ≤ (ps ++ post).length := by simp
    rcases h with ⟨hclass, hlen⟩ | ⟨hclass, hlen⟩
    · exact .inl ⟨hclass, hle.trans_lt hlen⟩
    · refine .inr ⟨hclass, fun n hn => hle.trans_lt (hlen n ?_)⟩
      obtain ⟨h2, _⟩ := List.getElem?_eq_some_iff.1 hn
      rw [List.getElem?_append_left h2, hn]

/-! ### The evaluation of a frame that goes on (R119) -/

theorem evaluate_of_frameOpen (h : FrameOpen u) : evaluate u = .next u := by
  rcases h with ⟨hclass, hlt⟩ | ⟨hclass, hnot⟩
  · simp [evaluate, hclass, readGoesOn, hlt]
  · simp [evaluate, hclass, hnot]

/-- R142, R150: a frame in flight whose bytes are no complete frame yet is open. -/
theorem frameOpen_of_needMore (hprog : u.inProgress = true) (hbound : u.parameterCount ≤ capacity)
    (hlatch : LatchInv u) (h : decode u.cfg (frameBytes u) = .needMore) : FrameOpen u := by
  rw [frameBytes_of_inProgress hprog, decode_eq_needMore_iff, params_length hbound] at h
  rcases h with ⟨hclass, hlt⟩ | ⟨hclass, hlt⟩
  · exact .inl ⟨hclass, hlt⟩
  · refine .inr ⟨hclass, writeComplete_eq_false_iff.2 fun h3 => ?_⟩
    obtain ⟨hn, _⟩ := hlatch.cursorOperands (hlatch.captured hprog hclass h3)
    have hcount : (params u)[2]? = some u.curCount.bits := by
      rw [getElem?_of_params_append hbound (List.append_nil _) h3, hn]
      rfl
    have := hlt _ hcount
    omega

/-! ### A byte that completes nothing -/

theorem room_of_needMore (hbound : s.parameterCount ≤ capacity)
    (h : decode s.cfg (frameBytes s ++ [b]) = .needMore) : s.inProgress = true → s.parameterCount < capacity := by
  intro hprog
  have hlen := length_le_of_decode_needMore h
  simp only [frameBytes_of_inProgress hprog, List.length_append, List.length_cons, List.length_nil,
    params_length hbound] at hlen
  omega

/-- R113, R119: a READY step that takes a byte after which the frame is not complete takes it in and does nothing more. -/
theorem step_of_needMore (hl : Live s) (hinv : FrameInv s) (hlatch : LatchInv s) (hp : s.phase = .ready)
    (hr : (nextInputs s).rst = false) (hb : stepByte s = some b)
    (h : decode s.cfg (frameBytes s ++ [b]) = .needMore) : step s = .next (taken b s) := by
  have hroom := room_of_needMore hinv.countBound h
  have hbytes : frameBytes (taken b s) = (taken b s).currentOpcode.bits :: params (taken b s) :=
    frameBytes_of_inProgress (taken_inProgress b s)
  rw [← frameBytes_taken hroom, ← taken_cfg b s] at h
  have hclass : frameClass (taken b s) = .eepromWrite ∨ frameClass (taken b s) = .eepromRead := by
    rw [hbytes, decode_eq_needMore_iff] at h
    exact h.symm.imp And.left And.left
  rw [step_of_room hl hp hr hb hroom]
  exact evaluate_of_frameOpen (frameOpen_of_needMore (taken_inProgress b s) (taken_countBound hroom)
    (taken_latchInv hinv hlatch hclass) h)

/-- Settles O21: the evaluation finds the frame open. -/
theorem unfinishedFrameGoesOn : Obligations.UnfinishedFrameGoesOn := fun _ _ => step_of_needMore

/-! ### A byte taken while idle -/

theorem taken_of_idle (h : s.inProgress = false) : taken b s = opcodeByte b (takeHead (acting s)) :=
  intake_idle (by simpa using h)

/-- R140, R160, R164: the commands that are complete on their opcode end the frame and leave TX and its latched bytes. -/
theorem exec_opcodeOnly (hi : i = .reset ∨ i = .pollSonar ∨ i = .unrecognized b) (h : exec i s = .next t) :
    KeepsBytes s t ∧ t.parameterCount = 0 ∧ t.tx = s.tx := by
  rcases hi with rfl | rfl | rfl
  all_goals
    refine ⟨exec_keepsBytes (by simp) h, ?_, exec_tx (by simp) h⟩
    cases h
    rfl

/-- R119: on its opcode byte a frame of EEPROM_READ or EEPROM_WRITE goes on, and any other runs its command; the latched
bytes and TX stay as they are. -/
theorem evaluate_opcode (hcount : u.parameterCount = 0) (h : evaluate u = .next t) :
    KeepsBytes u t ∧ t.parameterCount = 0 ∧ t.tx = u.tx ∧
      (frameClass u = .eepromRead ∨ frameClass u = .eepromWrite → t = u) := by
  have hopen : FrameOpen u → t = u := fun ho => by simpa [evaluate_of_frameOpen ho, eq_comm] using h
  have hruns : ∀ i : Instr, i = .reset ∨ i = .pollSonar ∨ i = .unrecognized u.currentOpcode.bits →
      frameClass u = i.commandClass → KeepsBytes u t ∧ t.parameterCount = 0 ∧ t.tx = u.tx := fun i hi hclass =>
    exec_opcodeOnly hi ((evaluate_opcodeOnly hi hclass hcount).symm.trans h)
  cases hclass : frameClass u with
  | eepromRead =>
    obtain rfl := hopen (.inl ⟨hclass, by omega⟩)
    exact ⟨.refl _, hcount, rfl, fun _ => rfl⟩
  | eepromWrite =>
    obtain rfl := hopen (.inr ⟨hclass, writeComplete_eq_false_iff.2 (by omega)⟩)
    exact ⟨.refl _, hcount, rfl, fun _ => rfl⟩
  | reset => simpa using hruns .reset (by simp) hclass
  | pollSonar => simpa using hruns .pollSonar (by simp) hclass
  | unrecognized => simpa using hruns (.unrecognized u.currentOpcode.bits) (by simp) hclass

/-- Settles O22: the byte is latched as an opcode, and the evaluation that follows keeps it. -/
theorem opcodeByteStartsFrame : Obligations.OpcodeByteStartsFrame := by
  intro s b hl ⟨hp, hidle⟩ hr hb
  have htaken := taken_of_idle (b := b) hidle
  have hclass : frameClass (taken b s) = decodeClass s.cfg b := by simp [taken, frameClass_intake, hidle]
  obtain ⟨t, ht⟩ := evaluate_answers (taken b s)
  obtain ⟨_, hmem, _, _, _, _, hrx, htake, _⟩ := evaluate_keeps ht
  obtain ⟨⟨hop, hbuf, es, hev⟩, hcount, htx, hsame⟩ := evaluate_opcode (by simp [htaken]) ht
  rw [hclass, decodeClass_eepromRead_iff hl.1, decodeClass_eepromWrite_iff hl.1] at hsame
  rw [htaken] at hop hbuf hev hmem hrx htake htx hsame
  refine ⟨t, (step_of_room hl hp hr hb (by simp [hidle])).trans ht, hop, hcount, htake, by simpa using hrx,
    by simpa using hbuf, by simpa using hmem, by simpa using htx, ⟨es, by simpa using hev⟩, fun hgoes => ?_⟩
  obtain rfl := hsame hgoes
  simp [hp]

/-! ### A byte too many -/

/-- R115, R116: the byte leaves RX and the frame is rejected. -/
theorem step_of_full (hl : Live s) (hp : s.phase = .ready) (hprog : s.inProgress = true)
    (hfull : s.parameterCount = capacity) (hr : (nextInputs s).rst = false) (hb : stepByte s = some b) :
    step s = .next (reject (takeHead (acting s)) .paramOverflow) := by
  rw [ready_step hl hp hr hb, feed, if_pos (by simp [bufferFull, hprog, hfull])]

/-- Settles O24: the step is the rejection alone. -/
theorem fullBufferRejects : Obligations.FullBufferRejects := by
  intro s b hl hp hprog hfull hr hb
  refine ⟨_, step_of_full hl hp hprog hfull hr hb, ?_⟩
  simp [hp, hl.2]

theorem stepByte_of_offers (h : Offers (nextInputs s)) (hrx : s.rx = b :: bs) : stepByte s = some b := by
  obtain ⟨_, _, _, hoffer⟩ := h
  simp [stepByte, offered, hoffer, hrx]

/-- R113, R119: bytes on RX that complete no frame are all taken in, one a step. -/
theorem run_of_needMore {is rest : List Inputs} (hl : Live s) (hinv : FrameInv s) (hlatch : LatchInv s)
    (hp : s.phase = .ready) (h : decode s.cfg (frameBytes s ++ post) = .needMore) (hrx : s.rx = post ++ tail)
    (hscript : s.script = is ++ rest) (hlen : is.length = post.length) (hoffers : ∀ x ∈ is, Offers x) :
    ∃ u : State, Sys2Proof.core.run is.length s = .next u ∧ KeepsOutside s u ∧ FrameInv u ∧
      frameBytes u = frameBytes s ++ post ∧ u.rx = tail ∧ u.script = rest := by
  induction post generalizing s is with
  | nil =>
    obtain rfl := List.length_eq_zero_iff.1 hlen
    exact ⟨s, rfl, ⟨rfl, rfl, rfl, rfl, rfl, rfl, rfl, rfl, rfl, rfl⟩, hinv, by simp, hrx, hscript⟩
  | cons b post ih =>
    obtain ⟨x, is, rfl⟩ := List.exists_cons_of_length_eq_add_one hlen
    have hx : Offers (nextInputs s) := nextInputs_cons hscript ▸ hoffers x (List.mem_cons_self ..)
    obtain ⟨hrst, hclear, harr, _⟩ := id hx
    rw [← List.singleton_append, ← List.append_assoc] at h
    have hfirst := decode_needMore_of_append h
    have hstep := step_of_needMore hl hinv hlatch hp hrst (stepByte_of_offers hx hrx) hfirst
    have hkeeps := taken_keepsOutside b hclear
    have hfault : (taken b s).faulted = none := hkeeps.faulted.trans hl.2
    have hbytes := frameBytes_taken (b := b) (room_of_needMore hinv.countBound hfirst)
    obtain ⟨u, hrun, hkeeps', hinv', hbytes', hrx', hscript'⟩ := ih ⟨hkeeps.cfg ▸ hl.1, hfault⟩
      (frameInvariantsKept s _ hinv hstep hfault) (latchInvariantsKept s _ hinv hlatch hstep hfault)
      (hkeeps.phase.trans hp) (by rwa [hbytes, hkeeps.cfg]) (taken_rx harr hrx) (by simp [hscript])
      (by simpa using hlen) fun x hx => hoffers x (List.mem_cons_of_mem _ hx)
    exact ⟨u, (run_succ hstep).trans hrun, hkeeps.trans hkeeps', hinv', by simp [hbytes', hbytes], hrx', hscript'⟩

/-- A frame in flight of 33 bytes has filled the buffer (R90, R116). -/
theorem full_of_frameBytes (hbound : s.parameterCount ≤ capacity) (h : (frameBytes s).length = capacity + 1) :
    s.inProgress = true ∧ s.parameterCount = capacity := by
  cases hprog : s.inProgress with
  | false => simp [frameBytes, hprog] at h
  | true =>
    rw [frameBytes_of_inProgress hprog, List.length_cons, params_length hbound] at h
    exact ⟨rfl, Nat.succ.inj h⟩

theorem exists_append_singleton_of_length {α : Type} {l : List α} {k : Nat} (h : l.length = k + 1) :
    ∃ l' x, l = l' ++ [x] ∧ l'.length = k := by
  obtain rfl | ⟨l', x, rfl⟩ := l.eq_nil_or_concat'
  · simp at h
  · exact ⟨l', x, rfl, by simpa using h⟩

/-- Settles O38: 33 bytes fill the buffer and complete nothing; the 34th is one too many. -/
theorem overlongWriteFrameLeavesNothing : Obligations.OverlongWriteFrameLeavesNothing := by
  intro s aH aL n ds tail is rest hl hinv ⟨hp, hidle⟩ hn hds hrx hscript hlen hoffers
  obtain ⟨ds, d, rfl, hdsLen⟩ := exists_append_singleton_of_length hds
  obtain ⟨is, x, rfl, hisLen⟩ := exists_append_singleton_of_length hlen
  have hshort : decode s.cfg (frameBytes s ++ s.cfg.opcEepromWrite :: aH :: aL :: n :: ds) = .needMore := by
    rw [frameBytes, hidle, if_neg Bool.false_ne_true, List.nil_append, overlongWriteNeverCompletes _ _ _ _ _ hl.1 hn,
      if_neg (by omega)]
  obtain ⟨hcount, hvalid⟩ := hinv.idle hidle
  obtain ⟨u, hrun, hkeeps, hinv', hbytes, hrx', hscript'⟩ := run_of_needMore (tail := d :: tail) (is := is)
    (rest := x :: rest) hl hinv (LatchInv.of_idle hidle hcount hvalid) hp hshort (by simp [hrx]) (by simp [hscript])
    (by simp [hisLen, hdsLen]) fun y hy => hoffers y (List.mem_append_left _ hy)
  obtain ⟨hprog, hfull⟩ := full_of_frameBytes hinv'.countBound (by rw [hbytes]; simp [frameBytes, hidle, hdsLen])
  have hx : Offers (nextInputs u) := nextInputs_cons hscript' ▸ hoffers x (by simp)
  obtain ⟨hrst, hclear, harr, _⟩ := id hx
  have hlast := step_of_full ⟨hkeeps.cfg ▸ hl.1, hkeeps.faulted.trans hl.2⟩ (hkeeps.phase.trans hp) hprog hfull hrst
    (stepByte_of_offers hx hrx')
  refine ⟨reject (takeHead (acting u)) .paramOverflow, ?_, ⟨?_, rfl⟩, rfl, rfl, ?_⟩
  · rw [List.length_append, run_add hrun]
    exact (run_one u).trans hlast
  · simpa using hkeeps.phase.trans hp
  · simp [hkeeps.faulted, hl.2, hkeeps.mem, hkeeps.tx, hrx', harr, hclear, hkeeps.pollArmed, hkeeps.switchThreshold,
      hkeeps.sonarDivider, hkeeps.thresholdSonar, hkeeps.thresholdIR]

end Sys2Proof.Machine
end

section
/-! SUPPORT. What each command does and leaves alone (spec/41_commands.md): the commands that end their frame in their own
step (O7 to O11), the start of the write sequence (O13), and the frames (O14 to O16). -/
namespace Sys2Proof.Machine

variable {s t : State} {i : Instr} {d : List Byte}

/-! ### The commands that end their frame -/

/-- Settles O7: the meaning is the frame's end, the phase and the event. -/
theorem resetRaisesRequest : Obligations.ResetRaisesRequest := fun _ => rfl

/-- Settles O8: the meaning is the flag, the frame's end and the event. -/
theorem pollSonarArms : Obligations.PollSonarArms := fun _ => rfl

/-- Settles O9: the meaning does not look at the byte. -/
theorem unrecognizedIsDropped : Obligations.UnrecognizedIsDropped := fun _ _ => rfl

/-- Settles O10: the reading branch of EEPROM_READ appends the response and ends the frame. -/
theorem readAnswersStoredByte : Obligations.ReadAnswersStoredByte := by
  intro a s hin
  rcases execEepromRead_cases a s with ⟨_, h⟩ | ⟨hout, _⟩
  · exact h
  · omega

/-- Settles O11: neither sum of `hexDigit` wraps. -/
theorem hexDigitCodes : Obligations.HexDigitCodes := by
  refine fun x => ⟨fun h => ?_, fun h => ?_⟩
  · have hx : x ≤ 9 := h
    rw [hexDigit, if_pos hx]
    bv_omega
  · have hx : ¬ x ≤ 9 := by bv_omega
    rw [hexDigit, if_neg hx, hexLetterBase]
    bv_omega

/-! ### What the commands leave alone -/

/-- R142: no command but EEPROM_WRITE writes the cursor's count, address or offset. -/
theorem exec_keepsCursor (hi : ∀ a n d, i ≠ .eepromWrite a n d) (h : exec i s = .next t) :
    t.curCount = s.curCount ∧ t.curAddr = s.curAddr ∧ t.curOff = s.curOff := by
  cases i with
  | eepromWrite a n d => exact absurd rfl (hi a n d)
  | eepromRead a => rcases execEepromRead_cases a s with ⟨_, hx⟩ | ⟨_, hx⟩ <;> rw [hx] at h <;> cases h <;> simp
  | reset | pollSonar | unrecognized b => cases h; simp

/-- R62, R195: no command but EEPROM_READ can fault. -/
theorem exec_faulted (hi : ∀ a, i ≠ .eepromRead a) (h : exec i s = .next t) : t.faulted = s.faulted := by
  cases i with
  | eepromRead a => exact absurd rfl (hi a)
  | reset | eepromWrite a n d | pollSonar | unrecognized b => cases h; simp

/-- R140, R143: only RESET and EEPROM_WRITE change the phase. -/
theorem exec_keepsPhase (hi : i ≠ .reset) (hw : ∀ a n d, i ≠ .eepromWrite a n d) (h : exec i s = .next t) :
    t.phase = s.phase := by
  cases i with
  | reset => exact absurd rfl hi
  | eepromWrite a n d => exact absurd rfl (hw a n d)
  | eepromRead a => rcases execEepromRead_cases a s with ⟨_, hx⟩ | ⟨_, hx⟩ <;> rw [hx] at h <;> cases h <;> simp
  | pollSonar | unrecognized b => cases h; simp

/-- Settles O14: none of the three commands is an EEPROM_WRITE or an EEPROM_READ. -/
theorem opcodeOnlyCommandsFrame : Obligations.OpcodeOnlyCommandsFrame := by
  intro i s t hi h
  have hwrite : ∀ a n d, i ≠ .eepromWrite a n d := by rcases hi with rfl | rfl | ⟨b, rfl⟩ <;> simp
  have hread : ∀ a, i ≠ .eepromRead a := by rcases hi with rfl | rfl | ⟨b, rfl⟩ <;> simp
  obtain ⟨hcfg, hmem, hswitch, hdivider, hsonar, hir, hrx, htake, hscript, hdraws⟩ := exec_keeps h
  obtain ⟨hopcode, hbuf, _⟩ := exec_keepsBytes hwrite h
  obtain ⟨hcount, haddr, hoff⟩ := exec_keepsCursor hwrite h
  exact ⟨hcfg, (exec_keepsPhase · hwrite h), (exec_pollArmed · h), hopcode, hbuf, hcount, haddr, hoff, hswitch, hdivider,
    hsonar, hir, exec_faulted hread h, exec_tx hread h, hrx, htake, hscript, hdraws, fun x => by rw [hmem]⟩

/-- Settles O15: EEPROM_READ is not one of the commands that write the phase, the poll flag or the latched bytes. -/
theorem readFrame : Obligations.ReadFrame := by
  intro a s t h
  obtain ⟨hcfg, hmem, hswitch, hdivider, hsonar, hir, hrx, htake, hscript, hdraws⟩ := exec_keeps h
  obtain ⟨hopcode, hbuf, _⟩ := exec_keepsBytes (by simp) h
  obtain ⟨hcount, haddr, hoff⟩ := exec_keepsCursor (by simp) h
  exact ⟨hcfg, exec_keepsPhase (by simp) (by simp) h, exec_pollArmed (by simp) h, hopcode, hbuf, hcount, haddr, hoff,
    hswitch, hdivider, hsonar, hir, hrx, htake, hscript, hdraws, fun x => by rw [hmem]⟩

/-! ### The start of the write sequence -/

theorem exec_eepromWrite (a : Word) (n : Byte) (d : List Byte) (s : State) :
    exec (.eepromWrite a n d) s = .next (writeStarted a n d s) := rfl

/-- R94, R117: the buffer starts with the command's parameters. -/
theorem writeStarted_buf_of_lt {a : Word} {n : Byte} {k : Nat} (hk : k < capacity) (h : k < 3 + d.length) :
    (writeStarted a n d s).buf[k] =
      .held ((hiByte a :: loByte a :: n :: d)[k]'(by simp only [List.length_cons]; omega)) :=
  (storeFrom_getElem _ s.buf 0 k hk).trans (dif_pos (by simp only [List.length_cons]; omega))

/-- R117: past the command's parameters the buffer is as before. -/
theorem writeStarted_buf_of_le {a : Word} {n : Byte} {k : Nat} (hk : k < capacity) (h : 3 + d.length ≤ k) :
    (writeStarted a n d s).buf[k] = s.buf[k] :=
  (storeFrom_getElem _ s.buf 0 k hk).trans (dif_neg (by simp only [List.length_cons]; omega))

theorem operandAddress_writeStarted (a : Word) (n : Byte) : operandAddress (writeStarted a n d s) = a := by
  rw [operandAddress, writeStarted_buf_of_lt (by decide) (by omega), writeStarted_buf_of_lt (by decide) (by omega)]
  exact assemble_hi_lo a

theorem operandCount_writeStarted (a : Word) (n : Byte) : operandCount (writeStarted a n d s) = n := by
  rw [operandCount, writeStarted_buf_of_lt (by decide) (by omega)]
  rfl

theorem operandData_writeStarted {a : Word} {n : Byte} (hlen : d.length = n.toNat) (hmax : n.toNat ≤ 29) :
    operandData (writeStarted a n d s) n = d := by
  refine List.ext_getElem ((operandData_length hmax).trans hlen.symm) fun k hk hkd => ?_
  rw [operandData_getElem k (by omega), writeStarted_buf_of_lt _ (by omega)]
  simp [Nat.add_comm 3 k]

/-- Settles O13: the operands are read back from the buffer they are latched in. -/
theorem writeStartsSequence : Obligations.WriteStartsSequence := by
  intro a n d s hi
  obtain ⟨hlen, hmax⟩ := eepromWrite_wellFormed_iff.1 hi
  exact ⟨_, exec_eepromWrite a n d s, rfl, rfl, rfl, rfl, rfl, rfl, rfl, rfl, operandAddress_writeStarted a n,
    operandCount_writeStarted a n, operandData_writeStarted hlen hmax, rfl, rfl, rfl, rfl, rfl, rfl, rfl, rfl⟩

/-- Settles O16: the starting step writes the buffer only where the parameters go. -/
theorem writeStartFrame : Obligations.WriteStartFrame := by
  intro a n d s t h
  obtain ⟨hcfg, hmem, hswitch, hdivider, hsonar, hir, hrx, htake, hscript, hdraws⟩ := exec_keeps h
  have hbuf : ∀ k (hk : k < capacity), 3 + d.length ≤ k → t.buf[k] = s.buf[k] := by
    cases h
    exact fun k hk => writeStarted_buf_of_le hk
  exact ⟨hcfg, exec_pollArmed (by simp) h, hswitch, hdivider, hsonar, hir, exec_faulted (by simp) h,
    exec_tx (by simp) h, hrx, htake, hscript, hdraws, hbuf, fun x => by rw [hmem]⟩

end Sys2Proof.Machine
end

section
/-! SUPPORT. The runs after a command: waiting in RESETREQ (spec/41_commands.md R141, O35), and the whole effect of an
EEPROM_WRITE frame (R144, O36). -/
namespace Sys2Proof.Machine

variable {s t : State} {d : List Byte}

/-! ### Waiting for reset -/

/-- R141: a RESETREQ step without rst takes in what arrives and applies `poll_clear`. -/
theorem resetReq_step (hl : Live s) (hp : s.phase = .resetReq) (hr : (nextInputs s).rst = false) :
    step s = .next (acting s) := by
  rw [step_of_live hl, stepWith_noRst _ hr]
  simp [phaseStep, hp, acting]

/-- Settles O35, by induction on the steps: each is the acting state of the one before. -/
theorem resetRequestWaitsForReset : Obligations.ResetRequestWaitsForReset := by
  intro s is rest hl hp hscript hrst
  induction is generalizing s with
  | nil => exact ⟨s, rfl, by simp [sysResetReq, hp], rfl, rfl, by simp, by simp⟩
  | cons x is ih =>
    have hx : nextInputs s = x := nextInputs_cons hscript
    have hstep := resetReq_step hl hp (hx ▸ hrst x (List.mem_cons_self ..))
    obtain ⟨t, hrun, hreq, hmem, htx, hrx, hpoll⟩ := ih (acting s) (by simpa [Live] using hl) (by simpa using hp)
      (by simp [acting, hscript]) fun i hi => hrst i (List.mem_cons_of_mem _ hi)
    refine ⟨t, (run_succ hstep).trans hrun, hreq, ?_, ?_, ?_, ?_⟩
    · simpa using hmem
    · simpa using htx
    · simpa [hx] using hrx
    · simpa [hx, Bool.and_assoc] using hpoll

/-! ### The bytes of a write sequence in the store -/

/-- R66: the addresses of the bytes after the first. -/
theorem add_one_add_ofNat (a : Word) (k : Nat) : a + 1 + BitVec.ofNat 16 k = a + BitVec.ofNat 16 (k + 1) := by
  bv_omega

/-- R171: a sequence changes no byte but those at its addresses. -/
theorem read_storeBytes_other {m : Memory} {a : Word} {x : Nat}
    (hx : ∀ k, k < d.length → x ≠ (a + BitVec.ofNat 16 k).toNat) : (storeBytes m a d).read x = m.read x := by
  induction d generalizing m a with
  | nil => rfl
  | cons b d ih =>
    have hhead : x ≠ a.toNat := by simpa using hx 0 (by simp)
    have htail : ∀ k, k < d.length → x ≠ (a + 1 + BitVec.ofNat 16 k).toNat := fun k hk =>
      add_one_add_ofNat a k ▸ hx (k + 1) (by simpa using hk)
    exact (ih htail).trans (read_write_other b hhead)

/-- R66, R171: up to 2^16 bytes, so that no address comes twice, the byte `k` of a sequence is read back at `a + k`. -/
theorem read_storeBytes {m : Memory} {a : Word} (hwf : Memory.wf m = true) (hlen : d.length ≤ 2 ^ 16) {k : Nat}
    (hk : k < d.length) : (storeBytes m a d).read (a + BitVec.ofNat 16 k).toNat = d[k] := by
  induction d generalizing m a k with
  | nil => simp at hk
  | cons b d ih =>
    rw [List.length_cons] at hlen
    cases k with
    | zero =>
      have hother : ∀ j, j < d.length → (a + BitVec.ofNat 16 0).toNat ≠ (a + 1 + BitVec.ofNat 16 j).toNat := by
        intro j hj
        bv_omega
      rw [storeBytes, read_storeBytes_other hother]
      simpa using read_write_same a.toNat b hwf
    | succ k =>
      rw [← add_one_add_ofNat]
      exact ih (write_wf _ _ hwf) (by omega) (by simpa using hk)

/-! ### The whole effect -/

/-- R73, R144: the cache that a sequence leaves is a Refresh of the store that it leaves. -/
theorem SequenceEffect.cacheInv (h : SequenceEffect s t d) (hc : ConfigInStore s.cfg) : CacheInv t := by
  intro _
  rw [h.switchThreshold, h.sonarDivider, h.thresholdSonar, h.thresholdIR]
  exact configWords_of_inStore (h.cfg ▸ hc)

/-- Settles O36: the started sequencer has the command's bytes to write, and its run stores them and refreshes. -/
theorem writeFrameWholeEffect : Obligations.WriteFrameWholeEffect := by
  intro a n d s u is rest hl _ _ hwf hi hx hscript hlen hacks hin hc
  obtain rfl : writeStarted a n d s = u := by cases hx; rfl
  obtain ⟨hcount, _⟩ := eepromWrite_wellFormed_iff.1 hi
  obtain ⟨t, hrun, heffect⟩ := (writesLeft_writeStarted hl hi hin).run_sequence hc hscript hlen hacks
  have hmem : t.mem = storeBytes s.mem a d := heffect.mem.trans (by rw [writeAddr_writeStarted]; rfl)
  refine ⟨t, hrun, fun k hk => ?_, fun x hother => ?_, heffect.cacheInv hc, heffect.phase, heffect.inProgress,
    heffect.parameterCount, heffect.curValid, heffect.tx, heffect.pollArmed, heffect.faulted⟩
  · rw [hmem]
    exact read_storeBytes hwf (by omega) hk
  · rw [hmem]
    exact read_storeBytes_other hother

end Sys2Proof.Machine
end

section
/-! SUPPORT. The steps of the write sequencer (spec/42_write_sequencer.md R171 to R174): an acknowledged, a waiting and a
faulting write step (O31, O32), the finishing step (O33), and waiting for an acknowledgement (O34, O53). -/
namespace Sys2Proof.Machine

variable {s t : State} {d : Byte}

/-! ### The write step -/

@[simp] theorem bufByte?_acting (k : Nat) : bufByte? (acting s) k = bufByte? s k := by
  simp [bufByte?]

/-- R171: with a byte left to write the sequencer's step is the write step. -/
theorem seqStep_of_lt (ack : Bool) (hlt : s.curOff.bits < s.curCount.bits) : seqStep ack s = writeStep ack s := by
  rcases seqStep_cases ack s with ⟨heq, _⟩ | ⟨hgt, _⟩ | ⟨_, h⟩
  · exact absurd heq (BitVec.ne_of_lt hlt)
  · bv_omega
  · exact h

theorem wseq_write_step (hl : Live s) (hp : s.phase = .wseq) (hr : (nextInputs s).rst = false)
    (hlt : s.curOff.bits < s.curCount.bits) : step s = .next (writeStep (nextInputs s).stAck (acting s)) := by
  rw [wseq_step hl hp hr, seqStep_of_lt _ (by simpa using hlt)]

/-- R172: while a byte is left to write, the buffer holds it. -/
theorem FrameInv.exists_data (h : FrameInv s) (hp : s.phase = .wseq) (hlt : s.curOff.bits < s.curCount.bits) :
    ∃ d, bufByte? s (3 + s.curOff.bits.toNat) = some d :=
  ⟨_, bufByte?_eq_some_iff.2 ⟨h.data_lt_capacity hp hlt, rfl⟩⟩

/-- R172: the write step at an address that exists. -/
theorem writeStep_of_inStore (ack : Bool) (hd : bufByte? s (3 + s.curOff.bits.toNat) = some d)
    (hin : (writeAddr s).toNat < s.cfg.storeSize) :
    writeStep ack s =
      if ack then
        emit { s with mem := s.mem.write (writeAddr s).toNat d, curOff := .held (s.curOff.bits + 1) }
          (.writeAck (writeAddr s) d)
      else emit s (.writeWait (writeAddr s) d) := by
  simp only [writeStep, hd, memWrite_some.2 ⟨hin, rfl⟩]

/-- R172: the write step at an address that does not exist. -/
theorem writeStep_of_not_inStore (ack : Bool) (hd : bufByte? s (3 + s.curOff.bits.toNat) = some d)
    (hout : s.cfg.storeSize ≤ (writeAddr s).toNat) : writeStep ack s = raiseFault s .storeRange := by
  simp only [writeStep, hd, memWrite_none.2 hout]

/-- Settles O31: the write step at an existing address, and what one write does to the store. -/
theorem writeStepStoresOnAck : Obligations.WriteStepStoresOnAck := by
  intro s hl hinv hp hr hlt hin
  obtain ⟨d, hd⟩ := hinv.exists_data hp hlt
  refine ⟨d, hd, ?_, fun x hx => read_write_other d hx, read_write_same _ d⟩
  rw [wseq_write_step hl hp hr hlt, writeStep_of_inStore _ (by simpa using hd) (by simpa using hin)]
  simp [emit]

/-- Settles O32: the write step at a missing address records the fault alone, and such a write is not presented. -/
theorem writeStepFaultsOutOfRange : Obligations.WriteStepFaultsOutOfRange := by
  intro s hl hinv hp hr hlt hout
  obtain ⟨d, hd⟩ := hinv.exists_data hp hlt
  refine ⟨?_, stWreq_iff.2 ⟨hp, hlt⟩, ?_⟩
  · rw [wseq_write_step hl hp hr hlt, writeStep_of_not_inStore _ (by simpa using hd) (by simpa using hout)]
    rfl
  · rw [Bool.eq_false_iff, ne_eq, presentsWrite_iff]
    rintro ⟨_, _, hin⟩
    omega

/-! ### The finishing step -/

/-- R173: with every byte written, a Refresh that finds an address out of range records the fault alone. -/
theorem wseq_finish_step_fault (hl : Live s) (hp : s.phase = .wseq) (hr : (nextInputs s).rst = false)
    (hdone : s.curOff.bits = s.curCount.bits) (hnone : configWords s = none) :
    step s = .next (raiseFault (acting s) .storeRange) := by
  have hall : allWritten (acting s) = true := by simp [allWritten, hdone]
  have hrefresh : refresh (acting s) = none := by rw [refresh_none, configWords_acting, hnone]
  rw [wseq_step hl hp hr, seqStep, if_pos hall, finishWriteSequence, hrefresh]

/-- Settles O33: the finishing step by what Refresh finds. -/
theorem finishingStepRefreshes : Obligations.FinishingStepRefreshes := by
  intro s hl hp hr hdone
  refine ⟨fun w0 w1 w2 w3 hw => ?_, wseq_finish_step_fault hl hp hr hdone⟩
  rw [wseq_finish_step hl hp hr hdone hw]
  simp [finish, emit, setCache]

/-! ### Waiting for the acknowledgement -/

/-- R41, R172: the request outputs of `t` are those of `s`. -/
structure SameRequest (s t : State) : Prop where
  wreq : stWreq t = stWreq s
  waddr : stWaddr t = stWaddr s
  wdata : stWdata t = stWdata s

/-- R172: without an acknowledgement, whether it waits or faults, a write step leaves the request as it is. -/
theorem writeStep_noAck_sameRequest (s : State) : SameRequest s (writeStep false s) := by
  rcases writeStep_cases false s with ⟨_, h⟩ | ⟨_, h⟩ | ⟨_, _, hack, _⟩ | ⟨_, _, _, h⟩
  · exact h ▸ ⟨rfl, rfl, rfl⟩
  · exact h ▸ ⟨rfl, rfl, rfl⟩
  · cases hack
  · exact h ▸ ⟨rfl, rfl, rfl⟩

/-- R41: `st_wdata` shows the data byte while a write is requested. -/
theorem stWdata_of_stWreq (hreq : stWreq s = true) : stWdata s = bufByte? s (3 + s.curOff.bits.toNat) := by
  simp [stWdata, hreq, bufByte?]

/-- Settles O53: the step is the write step, which without an acknowledgement leaves the request. -/
theorem requestHeldUntilAcknowledged : Obligations.RequestHeldUntilAcknowledged := by
  intro s t hinv hreq hr hack h
  obtain ⟨hp, hlt⟩ := stWreq_iff.1 hreq
  rw [wseq_write_step (step_next h).1 hp hr hlt, hack] at h
  cases h
  obtain ⟨hwreq, hwaddr, hwdata⟩ := writeStep_noAck_sameRequest (acting s)
  exact ⟨by simpa [hreq] using hwreq, by simpa using hwaddr, by simpa using hwdata,
    stWdata_of_stWreq hreq ▸ hinv.exists_data hp hlt⟩

/-- R172: a step that finds its write not acknowledged records the wait and nothing else. -/
theorem wseq_wait_step (hl : Live s) (hinv : FrameInv s) (hreq : stWreq s = true)
    (hin : (writeAddr s).toNat < s.cfg.storeSize) (hr : (nextInputs s).rst = false)
    (hack : (nextInputs s).stAck = false) :
    ∃ d, step s = .next (emit (acting s) (.writeWait (writeAddr s) d)) := by
  obtain ⟨hp, hlt⟩ := stWreq_iff.1 hreq
  obtain ⟨d, hd⟩ := hinv.exists_data hp hlt
  refine ⟨d, ?_⟩
  rw [wseq_write_step hl hp hr hlt, hack, writeStep_of_inStore _ (by simpa using hd) (by simpa using hin),
    writeAddr_acting]
  rfl

/-- Settles O34, by induction on the steps: each leaves the request and all that decides the next step. -/
theorem writeWaitsForAck : Obligations.WriteWaitsForAck := by
  intro s is rest hl hinv hreq hin hscript hwait
  induction is generalizing s with
  | nil =>
    obtain ⟨hp, _⟩ := stWreq_iff.1 hreq
    obtain ⟨hprog, _⟩ := hinv.wseq hp
    exact ⟨s, rfl, hp, hreq, rfl, rfl, rfl, by simp, rfl, rfl, rfl, rfl, rfl, hprog⟩
  | cons x is ih =>
    have hx : nextInputs s = x := nextInputs_cons hscript
    obtain ⟨hr, hack⟩ := hwait x (List.mem_cons_self ..)
    obtain ⟨d, hstep⟩ := wseq_wait_step hl hinv hreq hin (hx ▸ hr) (hx ▸ hack)
    obtain ⟨hreq', hwaddr, hwdata, _⟩ := requestHeldUntilAcknowledged s _ hinv hreq (hx ▸ hr) (hx ▸ hack) hstep
    obtain ⟨t, hrun, hp, htreq, htaddr, htdata, hmem, hrx, htx, hw0, hw1, hw2, hw3, hprog⟩ :=
      ih (emit (acting s) (.writeWait (writeAddr s) d)) (by simpa [Live] using hl)
        (by apply hinv.congr <;> simp) hreq' (by simpa [writeAddr] using hin) (by simp [acting, hscript])
        fun i hi => hwait i (List.mem_cons_of_mem _ hi)
    refine ⟨t, (run_succ hstep).trans hrun, hp, htreq, htaddr.trans hwaddr, htdata.trans hwdata, by simpa using hmem,
      by simpa [hx] using hrx, by simpa using htx, by simpa using hw0, by simpa using hw1, by simpa using hw2,
      by simpa using hw3, hprog⟩

end Sys2Proof.Machine
end

section
/-! SUPPORT. The faults a step can record (spec/60_exceptions.md R196): on the states that meet the invariants F_STORE_RANGE
is the only one, and it takes an address past the store (O45, O46). -/
namespace Sys2Proof.Machine

variable {s t u : State}

/-- R62, R63, R196: `t` records no fault, or F_STORE_RANGE under a configuration for which some address does not exist. -/
def OnlyStoreFault (c : Config) (t : State) : Prop :=
  t.faulted = none ∨ t.faulted = some .storeRange ∧ ∃ a : Word, c.storeSize ≤ a.toNat

theorem raiseFault_onlyStoreFault {c : Config} {a : Word} (s : State) (h : c.storeSize ≤ a.toNat) :
    OnlyStoreFault c (raiseFault s .storeRange) :=
  .inr ⟨rfl, a, h⟩

/-- R70: where Refresh answers nothing, a configuration byte lies past the store. -/
theorem raiseFault_onlyStoreFault_of_configWords (h : configWords s = none) :
    OnlyStoreFault s.cfg (raiseFault s .storeRange) := by
  obtain ⟨f, hout | hout⟩ := configWords_none_iff.1 h
  · exact raiseFault_onlyStoreFault s hout
  · exact raiseFault_onlyStoreFault s hout

/-! ### A byte taken in READY -/

/-- R62, R195: of the commands only EEPROM_READ faults, at an address past the store. -/
theorem exec_onlyStoreFault {i : Instr} (hs : s.faulted = none) (h : exec i s = .next t) : OnlyStoreFault s.cfg t := by
  cases i with
  | eepromRead a =>
    rcases execEepromRead_cases a s with ⟨_, hx⟩ | ⟨hout, hx⟩ <;> rw [hx] at h <;> cases h
    · exact .inl hs
    · exact raiseFault_onlyStoreFault s hout
  | reset | eepromWrite a n d | pollSonar | unrecognized b => exact .inl ((exec_faulted (by simp) h).trans hs)

/-- R119: an evaluation that finds no parameters with a RESET or POLL_SONAR frame takes no unreachable branch. -/
theorem evaluate_onlyStoreFault (hu : u.faulted = none)
    (halone : frameClass u = .reset ∨ frameClass u = .pollSonar → u.parameterCount = 0)
    (h : evaluate u = .next t) : OnlyStoreFault u.cfg t := by
  rcases evaluate_next h with ⟨_, _, hx⟩ | ⟨_, _, hx⟩ | ⟨hclass, hcount, _⟩ | ⟨_, hx⟩ | ⟨_, _, rfl⟩ | ⟨_, _, hx⟩ |
    ⟨_, _, rfl⟩ | ⟨_, _, rfl⟩ | ⟨_, _, hx⟩
  · exact exec_onlyStoreFault hu hx
  · exact exec_onlyStoreFault hu hx
  · exact absurd (halone hclass) hcount
  · exact exec_onlyStoreFault hu hx
  · exact .inl hu
  · exact exec_onlyStoreFault hu hx
  · exact .inl hu
  · exact .inl hu
  · exact exec_onlyStoreFault hu hx

/-- R140, R160: a RESET or POLL_SONAR frame ends on its opcode, so a byte taken never is its parameter. -/
theorem intake_alone (hlatch : LatchInv s) (b : Byte)
    (hclass : frameClass (intake b s) = .reset ∨ frameClass (intake b s) = .pollSonar) :
    (intake b s).parameterCount = 0 := by
  cases hprog : s.inProgress with
  | false => simp [intake_parameterCount, hprog]
  | true =>
    rw [frameClass_intake, if_pos hprog] at hclass
    rcases hlatch.inFlightClass hprog with hfly | hfly <;> simp [hfly] at hclass

theorem feed_onlyStoreFault {b : Byte} (hs : s.faulted = none) (hlatch : LatchInv s) (h : feed b s = .next t) :
    OnlyStoreFault s.cfg t := by
  rcases feed_next h with ⟨_, _, rfl⟩ | ⟨_, he⟩
  · exact .inl hs
  · simpa using evaluate_onlyStoreFault (by simpa using hs) (intake_alone hlatch b) he

/-! ### The other actions of a step -/

theorem initStep_onlyStoreFault (hs : s.faulted = none) : OnlyStoreFault s.cfg (initStep s) := by
  rcases initStep_cases s with ⟨hnone, h⟩ | ⟨_, _, _, _, _, h⟩ <;> rw [h]
  · exact raiseFault_onlyStoreFault_of_configWords hnone
  · exact .inl hs

theorem finishWriteSequence_onlyStoreFault (hs : s.faulted = none) : OnlyStoreFault s.cfg (finishWriteSequence s) := by
  rcases finishWriteSequence_cases s with ⟨hnone, h⟩ | ⟨_, _, _, _, _, h⟩ <;> rw [h]
  · exact raiseFault_onlyStoreFault_of_configWords hnone
  · exact .inl hs

/-- R171, R172: in WSEQ the offset is within the count, and the data byte at it within the buffer. -/
theorem seqStep_onlyStoreFault (ack : Bool) (hs : s.faulted = none) (hinv : FrameInv s) (hp : s.phase = .wseq) :
    OnlyStoreFault s.cfg (seqStep ack s) := by
  obtain ⟨_, _, _, hle⟩ := hinv.wseq hp
  rcases seqStep_cases ack s with ⟨_, h⟩ | ⟨hgt, _⟩ | ⟨hlt, h⟩
  · exact h ▸ finishWriteSequence_onlyStoreFault hs
  · bv_omega
  · have hdata := hinv.data_lt_capacity hp hlt
    rw [h]
    rcases writeStep_cases ack s with ⟨hpast, _⟩ | ⟨hout, hw⟩ | ⟨_, _, _, hw⟩ | ⟨_, _, _, hw⟩
    · omega
    · exact hw ▸ raiseFault_onlyStoreFault s hout
    · exact hw ▸ .inl hs
    · exact hw ▸ .inl hs

/-! ### The step -/

/-- R196: on a state that meets the invariants, F_STORE_RANGE is the only fault a step can record. -/
theorem step_onlyStoreFault (hinv : FrameInv s) (hlatch : LatchInv s) (h : step s = .next t) :
    OnlyStoreFault s.cfg t := by
  have hs : (acting s).faulted = none := (acting_faulted s).trans (step_next h).1.2
  rw [← acting_cfg s]
  rcases step_cases h with ⟨_, rfl⟩ | ⟨_, _, rfl⟩ | ⟨_, _, _, rfl⟩ | ⟨_, _, b, _, hfeed⟩ | ⟨_, hp, rfl⟩ | ⟨_, _, rfl⟩
  · exact .inl (step_next h).1.2
  · exact initStep_onlyStoreFault hs
  · exact .inl hs
  · exact feed_onlyStoreFault (s := takeHead (acting s)) hs (takeHead_acting_latchInv hlatch) hfeed
  · exact seqStep_onlyStoreFault _ hs (acting_frameInv hinv) (by simpa using hp)
  · exact .inl hs

/-- Settles O45: a fault that a step records is F_STORE_RANGE. -/
theorem unreachableIsNeverRaised : Obligations.UnreachableIsNeverRaised := by
  intro s t hinv hlatch h
  rcases step_onlyStoreFault hinv hlatch h with hnone | ⟨hrange, _⟩
  · simp [hnone]
  · simp [hrange]

/-- Settles O46: the full store holds every 16-bit address, so no access is past it. -/
theorem fullStoreNeverFaults : Obligations.FullStoreNeverFaults := by
  intro s t hinv hlatch hfull h
  rcases step_onlyStoreFault hinv hlatch h with hnone | ⟨_, a, hout⟩
  · exact hnone
  · have hsize : s.cfg.storeSize = 65536 := hfull
    have := a.isLt
    omega

end Sys2Proof.Machine
end

section
/-! SUPPORT. Reset and the INIT step (spec/70_reset_and_hazards.md R220 to R222, O27, O29), and resynchronisation after a
frame error (R233, O56). -/
namespace Sys2Proof.Machine

variable {s t u : State} {b : Byte} {k : Nat}

/-! ### Reset and the INIT step -/

/-- The reset step of a live state (R220). -/
theorem reset_step (hl : Live s) (hr : (nextInputs s).rst = true) :
    step s = .next (resetStep (nextInputs s) (fresh s)) :=
  (step_of_live hl).trans (stepWith_rst _ hr)

/-- R222: the byte of a write in flight becomes the draw. -/
theorem resetMemory_read_draw (i : Inputs) (hwf : Memory.wf s.mem = true) (hw : writeInFlight s = true) :
    (resetMemory i s).read (writeAddr s).toNat = i.resetByte := by
  rw [resetMemory, if_pos hw, read_write_same _ _ hwf]

/-- Settles O27: the reset step's fields, and its store by whether a write is in flight. -/
theorem resetLeavesResetState : Obligations.ResetLeavesResetState := by
  intro s hl hr
  have hkept : ∀ x, ¬(writeInFlight s = true ∧ x = (writeAddr s).toNat) →
      (resetMemory (nextInputs s) (fresh s)).read x = s.mem.read x := fun x hx =>
    resetMemory_read (s := fresh s) (by rwa [not_and_or, Bool.not_eq_true] at hx)
  exact ⟨_, reset_step hl hr, rfl, rfl, rfl, rfl, rfl, rfl, fun k hk => by simp, rfl, rfl, rfl, rfl, rfl, rfl, rfl, hl.2,
    rfl, rfl, rfl, rfl, rfl, hkept, resetMemory_read_draw (s := fresh s) (nextInputs s)⟩

/-- Settles O29: the words Refresh finds in the acting state are those of the store. -/
theorem initStepRefreshes : Obligations.InitStepRefreshes := by
  intro s hl hp hr hin word
  have hwords : configWords (acting s) = some (word .switchThreshold, word .sonarDivider, word .thresholdSonar,
      word .thresholdIR) := (configWords_acting s).trans (configWords_of_inStore hin)
  rw [init_step hl hp hr]
  rcases initStep_cases (acting s) with ⟨hnone, _⟩ | ⟨_, _, _, _, hsome, hinit⟩
  · simp [hwords] at hnone
  · cases hwords.symm.trans hsome
    rw [hinit]
    simp [emit, setCache]

/-! ### Resynchronisation -/

/-- Log 5: a step uses up the head of the script and nothing more of it. -/
theorem step_script (h : step s = .next t) : t.script = s.script.tail := by
  have hacting : (acting s).script = s.script.tail := by simp [acting]
  rw [← hacting]
  rcases step_cases h with ⟨_, rfl⟩ | ⟨_, _, rfl⟩ | ⟨_, _, _, rfl⟩ | ⟨_, _, b, _, hfeed⟩ | ⟨_, _, rfl⟩ | ⟨_, _, rfl⟩
  · simp [acting]
  · rcases initStep_cases (acting s) with ⟨_, h⟩ | ⟨_, _, _, _, _, h⟩ <;> rw [h] <;> rfl
  · rfl
  · obtain ⟨_, _, _, _, _, _, _, _, hscript, _⟩ := feed_keeps hfeed
    exact hscript
  · rcases seqStep_cases (nextInputs s).stAck (acting s) with ⟨_, h⟩ | ⟨_, h⟩ | ⟨_, h⟩ <;> rw [h]
    · rcases finishWriteSequence_cases (acting s) with ⟨_, h⟩ | ⟨_, _, _, _, _, h⟩ <;> rw [h] <;> rfl
    · rfl
    · rcases writeStep_cases (nextInputs s).stAck (acting s) with ⟨_, h⟩ | ⟨_, h⟩ | ⟨_, _, _, h⟩ | ⟨_, _, _, h⟩ <;>
        rw [h] <;> rfl
  · rfl

/-- A state in which no rule of R233's run can fault: the invariants hold, the store is full, and `b` is an unrecognised
byte too large for the count of a frame that completes. -/
structure Resyncable (b : Byte) (s : State) : Prop where
  live : Live s
  frame : FrameInv s
  latch : LatchInv s
  full : FullStore s
  unrecognized : decodeClass s.cfg b = .unrecognized
  large : maxCount < b.toNat

/-- `k` more steps resynchronise the SCD: RX holds copies of `b` alone, enough to end any frame in flight, and `k` covers
taking them and the write sequence of a frame whose count lets it complete, a step for each write left and one to
finish. -/
structure Resyncing (b : Byte) (k : Nat) (s : State) : Prop where
  phase : s.phase = .ready ∨ s.phase = .wseq
  copies : ∀ x ∈ s.rx, x = b
  enough : s.inProgress = true → capacity < s.parameterCount + s.rx.length
  takes : s.rx.length ≤ k
  writes : s.curValid = true → s.curCount.bits.toNat ≤ maxCount →
    s.rx.length + (s.curCount.bits.toNat - s.curOff.bits.toNat) + 1 ≤ k

/-- The invariants are those the step keeps, and the store has no address to fault at. -/
theorem Resyncable.step (h : Resyncable b s) (hs : step s = .next t) : Resyncable b t := by
  have hcfg := configurationIsFixed s t hs
  have hf := fullStoreNeverFaults s t h.frame h.latch h.full hs
  exact {
    live := ⟨hcfg ▸ h.live.1, hf⟩
    frame := frameInvariantsKept s t h.frame hs hf
    latch := latchInvariantsKept s t h.frame h.latch hs hf
    full := (congrArg Config.storeSize hcfg).trans h.full
    unrecognized := hcfg ▸ h.unrecognized
    large := h.large }

/-- With no frame in flight, the bytes on RX are all there is to wait for. -/
theorem Resyncing.of_idle (hp : t.phase = .ready) (hidle : t.inProgress = false) (hv : t.curValid = false)
    (hcopies : ∀ x ∈ t.rx, x = b) (htakes : t.rx.length ≤ k) : Resyncing b k t where
  phase := .inl hp
  copies := hcopies
  enough := by simp [hidle]
  takes := htakes
  writes := by simp [hv]

/-- At the start any frame state in READY will do: 33 bytes are one more than a frame has parameters, and at most 29 writes
and a finishing step come between them. -/
theorem Resyncing.of_ready (hp : s.phase = .ready) (hrx : s.rx = List.replicate (capacity + 1) b) :
    Resyncing b (capacity + 1 + (maxCount + 1)) s where
  phase := .inl hp
  copies := fun x hx => List.eq_of_mem_replicate (hrx ▸ hx)
  enough := fun _ => by simp only [hrx, List.length_replicate]; omega
  takes := by simp only [hrx, List.length_replicate]; omega
  writes := fun _ hn => by simp only [hrx, List.length_replicate]; omega

/-- With RX empty a READY state is idle: a frame in flight would want more parameters than the buffer holds. -/
theorem Resyncing.idle_of_empty (h : Resyncing b k s) (hinv : FrameInv s) (hrx : s.rx = []) : s.inProgress = false := by
  cases hprog : s.inProgress with
  | false => rfl
  | true =>
    have hmore := h.enough hprog
    have hbound := hinv.countBound
    simp only [hrx, List.length_nil] at hmore
    omega

/-- With no steps left there is no byte left to take, no write to wait for and no frame in flight. -/
theorem Resyncing.done (h : Resyncing b 0 s) (hinv : FrameInv s) : s.rx = [] ∧ ReadyIdle s := by
  have hrx : s.rx = [] := List.length_eq_zero_iff.1 (Nat.le_zero.1 h.takes)
  refine ⟨hrx, h.phase.resolve_right fun hp => ?_, h.idle_of_empty hinv hrx⟩
  obtain ⟨_, hv, hcount, _⟩ := hinv.wseq hp
  have hbound := hinv.countBound
  have hleft := h.writes hv (by simp only [maxCount]; omega)
  omega

/-! ### A byte of R233's run -/

theorem taken_parameterCount (b : Byte) (s : State) :
    (taken b s).parameterCount = if s.inProgress then s.parameterCount + 1 else 0 := by
  simp [taken, intake_parameterCount]

theorem frameClass_taken (b : Byte) (s : State) :
    frameClass (taken b s) = if s.inProgress then frameClass s else decodeClass s.cfg b := by
  simp [taken, frameClass_intake]

/-- R117, R142: a copy of `b` taken as a parameter leaves one byte less on RX; as a count it is too large for the frame to
complete. -/
theorem Resyncing.of_parameter (h : Resyncing b (k + 1) s) (hb : maxCount < b.toNat) (hp : s.phase = .ready)
    (hprog : s.inProgress = true) {bs : List Byte} (hrx : s.rx = b :: bs) (harr : (nextInputs s).arrivals = []) :
    Resyncing b k (taken b s) := by
  have hrx' := taken_rx harr hrx
  have hlen : s.rx.length = bs.length + 1 := by simp [hrx]
  refine ⟨.inl (by simpa using hp), ?_, fun _ => ?_, ?_, ?_⟩
  · exact fun x hx => h.copies x (hrx ▸ List.mem_cons_of_mem _ (hrx' ▸ hx))
  · have := h.enough hprog
    rw [hrx', taken_parameterCount, if_pos hprog]
    omega
  · have := h.takes
    rw [hrx']
    omega
  · rw [hrx', taken_of_inProgress hprog]
    rcases captureCursor_cases (appendParam b (takeHead (acting s))) with ⟨_, hthird, hcap⟩ | ⟨_, hcap⟩ <;> rw [hcap]
    · intro _ hn
      have hcountByte : s.parameterCount = 2 := by simpa using hthird
      have hsmall : b.toNat ≤ maxCount := by simpa [operandCount, hcountByte] using hn
      omega
    · intro hv hn
      have hleft := h.writes (by simpa using hv) (by simpa using hn)
      simp only [appendParam_curCount, appendParam_curOff, takeHead_curCount, takeHead_curOff, acting_curCount,
        acting_curOff]
      omega

/-- R119: the evaluation lets the frame in flight go on, ends it, or starts its write sequence, which `k` covers. -/
theorem Resyncing.of_evaluate (h : Resyncing b k u) (hc : u.cfg.wellFormed = true) (hlatch : LatchInv u)
    (hprog : u.inProgress = true) (hp : u.phase = .ready) (hbound : u.parameterCount ≤ capacity)
    (he : evaluate u = .next t) (hf : t.faulted = none) : Resyncing b k t := by
  have hends : ∀ i : Instr, i ≠ .reset → (∀ a n d, i ≠ .eepromWrite a n d) → exec i u = .next t → Resyncing b k t := by
    intro i hi hw hx
    obtain ⟨hidle, _, hv⟩ := exec_ends hw hx hf
    obtain ⟨_, _, _, _, _, _, hrx, _⟩ := exec_keeps hx
    exact .of_idle ((exec_keepsPhase hi hw hx).trans hp) hidle hv (hrx ▸ h.copies) (hrx ▸ h.takes)
  have hfly := hlatch.inFlightClass hprog
  rcases evaluate_next he with ⟨hclass, _⟩ | ⟨_, _, hx⟩ | ⟨_, _, rfl⟩ | ⟨_, hx⟩ | ⟨_, _, rfl⟩ | ⟨_, _, hx⟩ |
    ⟨_, _, rfl⟩ | ⟨_, _, rfl⟩ | ⟨hclass, hdone, hx⟩
  · simp [hclass] at hfly
  · exact hends _ (by simp) (by simp) hx
  · simp at hf
  · exact hends _ (by simp) (by simp) hx
  · exact h
  · exact hends _ (by simp) (by simp) hx
  · exact .of_idle hp rfl rfl h.copies h.takes
  · exact h
  · rw [execEepromWrite_of_latchInv hc hlatch hprog hp hbound hclass hdone] at hx
    cases hx
    exact { h with phase := .inr rfl }

/-- R91, R113: a READY step that takes a copy of `b`. While idle the byte is dropped (R164), with a full buffer it ends the
frame (R116), and otherwise it is a parameter. -/
theorem Resyncing.step_byte (h : Resyncing b (k + 1) s) (hr : Resyncable b s) (hoffers : Offers (nextInputs s))
    (hp : s.phase = .ready) {bs : List Byte} (hrx : s.rx = b :: bs) (hs : step s = .next t) : Resyncing b k t := by
  obtain ⟨hrst, _, harr, _⟩ := id hoffers
  have hb := stepByte_of_offers hoffers hrx
  have hf := fullStoreNeverFaults s t hr.frame hr.latch hr.full hs
  have hbs : bs.length ≤ k := by simpa [hrx] using h.takes
  have hcopies : ∀ x ∈ bs, x = b := fun x hx => h.copies x (hrx ▸ List.mem_cons_of_mem _ hx)
  cases hprog : s.inProgress with
  | false =>
    have hclass : frameClass (taken b s) = .unrecognized := by
      simpa [frameClass_taken, hprog] using hr.unrecognized
    have hcount : (taken b s).parameterCount = 0 := by simp [taken_parameterCount, hprog]
    rw [step_of_room hr.live hp hrst hb (by simp [hprog]), evaluate_opcodeOnly (.inr (.inr rfl)) hclass hcount] at hs
    cases hs
    have hrx' := taken_rx harr hrx
    exact .of_idle (by simpa using hp) rfl rfl (by simpa [hrx'] using hcopies) (by simpa [hrx'] using hbs)
  | true =>
    rcases hr.frame.countBound.eq_or_lt with hfull | hroom
    · rw [step_of_full hr.live hp hprog hfull hrst hb] at hs
      cases hs
      exact .of_idle (by simpa using hp) rfl rfl (by simpa [hrx, harr] using hcopies) (by simpa [hrx, harr] using hbs)
    · rw [step_of_room hr.live hp hrst hb fun _ => hroom] at hs
      have hclass : frameClass (taken b s) = frameClass s := by simp [frameClass_taken, hprog]
      exact (h.of_parameter hr.large hp hprog hrx harr).of_evaluate (by simpa using hr.live.1)
        (taken_latchInv hr.frame hr.latch (hclass ▸ hr.latch.inFlightClass hprog)) (by simp) (by simpa using hp)
        (taken_countBound fun _ => hroom) hs hf

/-! ### The other steps of R233's run -/

/-- R172, R173: an acknowledged step of the sequencer writes one of the bytes left, or ends the frame. -/
theorem Resyncing.step_wseq (h : Resyncing b (k + 1) s) (hr : Resyncable b s) (hoffers : Offers (nextInputs s))
    (hack : (nextInputs s).stAck = true) (hp : s.phase = .wseq) (hs : step s = .next t) : Resyncing b k t := by
  obtain ⟨hrst, _, harr, _⟩ := hoffers
  have hf := fullStoreNeverFaults s t hr.frame hr.latch hr.full hs
  have hrx : (acting s).rx = s.rx := by simp [harr]
  obtain ⟨_, hv, hcount, _⟩ := hr.frame.wseq hp
  have hbound := hr.frame.countBound
  have hleft := h.writes hv (by simp only [maxCount]; omega)
  have hrxLe : s.rx.length ≤ k := by omega
  rw [wseq_step hr.live hp hrst, hack] at hs
  cases hs
  rcases seqStep_cases true (acting s) with ⟨_, hq⟩ | ⟨_, hq⟩ | ⟨hlt, hq⟩ <;> rw [hq] at hf ⊢
  · rcases finishWriteSequence_cases (acting s) with ⟨_, hfin⟩ | ⟨_, _, _, _, _, hfin⟩ <;> rw [hfin] at hf ⊢
    · simp at hf
    · exact .of_idle rfl rfl rfl (hrx ▸ h.copies) (hrx ▸ hrxLe)
  · simp at hf
  · rcases writeStep_cases true (acting s) with ⟨_, hw⟩ | ⟨_, hw⟩ | ⟨_, _, _, hw⟩ | ⟨_, _, hno, _⟩
    · simp [hw] at hf
    · simp [hw] at hf
    · rw [hw]
      have hlt : s.curOff.bits < s.curCount.bits := by simpa using hlt
      have hoff : (s.curOff.bits + 1).toNat = s.curOff.bits.toNat + 1 := by bv_omega
      have hfewer : s.rx.length + (s.curCount.bits.toNat - (s.curOff.bits + 1).toNat) + 1 ≤ k := by
        rw [hoff]
        bv_omega
      exact ⟨.inr (by simpa using hp), by simpa [harr] using h.copies, by simpa [harr] using h.enough, hrx ▸ hrxLe,
        fun _ _ => by simpa [harr] using hfewer⟩
    · cases hno

/-- R124: with RX empty a READY step leaves the idle state idle. -/
theorem Resyncing.step_empty (h : Resyncing b (k + 1) s) (hr : Resyncable b s) (hoffers : Offers (nextInputs s))
    (hp : s.phase = .ready) (hrx : s.rx = []) (hs : step s = .next t) : Resyncing b k t := by
  obtain ⟨hrst, _, harr, _⟩ := hoffers
  have hnone : stepByte s = none := by simp [stepByte, offered, hrx, harr]
  have hidle := h.idle_of_empty hr.frame hrx
  obtain ⟨_, hv⟩ := hr.frame.idle hidle
  rw [noByteNoChange s hr.live hp hrst hnone] at hs
  cases hs
  exact .of_idle (by simpa using hp) (by simpa using hidle) (by simpa using hv) (by simp [hrx, harr])
    (by simp [hrx, harr])

/-- Every step of the run is one step less to go. -/
theorem Resyncing.step (h : Resyncing b (k + 1) s) (hr : Resyncable b s) (hoffers : Offers (nextInputs s))
    (hack : (nextInputs s).stAck = true) (hs : step s = .next t) : Resyncing b k t := by
  rcases h.phase with hp | hp
  · cases hrx : s.rx with
    | nil => exact h.step_empty hr hoffers hp hrx hs
    | cons x bs =>
      obtain rfl : x = b := h.copies x (by simp [hrx])
      exact h.step_byte hr hoffers hp hrx hs
  · exact h.step_wseq hr hoffers hack hp hs

/-- As many steps as `k` end the resynchronisation. -/
theorem Resyncing.run {is rest : List Inputs} (h : Resyncing b is.length s) (hr : Resyncable b s)
    (hscript : s.script = is ++ rest) (his : ∀ i ∈ is, Offers i ∧ i.stAck = true) :
    ∃ t : State, Sys2Proof.core.run is.length s = .next t ∧ t.rx = [] ∧ ReadyIdle t ∧ t.faulted = none := by
  induction is generalizing s with
  | nil =>
    obtain ⟨hrx, hidle⟩ := h.done hr.frame
    exact ⟨s, rfl, hrx, hidle, hr.live.2⟩
  | cons x is ih =>
    obtain ⟨hoffers, hack⟩ : Offers (nextInputs s) ∧ (nextInputs s).stAck = true :=
      nextInputs_cons hscript ▸ his x (List.mem_cons_self ..)
    obtain ⟨t, hs⟩ := liveStateSteps s hr.live
    obtain ⟨u, hrun, hdone⟩ := ih (h.step hr hoffers hack hs) (hr.step hs) (by simp [step_script hs, hscript])
      fun i hi => his i (List.mem_cons_of_mem _ hi)
    exact ⟨u, (run_succ hs).trans hrun, hdone⟩

/-- Settles O56: 63 steps are the 33 takes, and the 29 writes and the finishing step of the longest write sequence. -/
theorem thirtyThreeBytesResynchronise : Obligations.ThirtyThreeBytesResynchronise := by
  intro s b is rest hl hinv hlatch hfull hp hclass hb hrx hscript hlen his
  have hstart : Resyncing b is.length s := hlen ▸ .of_ready hp hrx
  exact hstart.run ⟨hl, hinv, hlatch, hfull, hclass, hb⟩ hscript his

end Sys2Proof.Machine
end
